-- ==== Sys2Proof/Word.lean ====
section
/-! DEFINITION. The word and byte types of the packet stream and the plain value types built of them:
the 32-bit packet word, the 8-bit byte (a palette index, a ROM byte, a color channel) and the Color.
Rules of spec/: 10_state.md R28, 20_memory.md R48, 30_encoding.md R57, 40_color.md R75. -/

namespace Sys2Proof

/-- A word of the command port, of a completion or of a presented frame (R48, R57). -/
abbrev Word := BitVec 32

/-- A VRAM cell, a palette index, a glyph ROM byte or a color channel (R48). -/
abbrev Byte := BitVec 8

/-- A mode id or a font id (R24, R25). -/
abbrev Id24 := BitVec 24

/-- A true-color value, three 8-bit unsigned channels (R75). -/
structure Color where
  r : Byte
  g : Byte
  b : Byte
  deriving DecidableEq, Repr

end Sys2Proof
end

