-- ==== Sys2Proof/Machine/Color.lean ====
section
/-! DEFINITION. Color values and saturating arithmetic (40_color.md R75 to R89). The core itself uses only `toPacked` and
`fromPacked`; the operators are the host's value functions (R5). No function fails, and none sets a flag (R76). -/

namespace Sys2Proof
namespace Color

/-- Black, the padding of a default palette (R29). -/
def black : Color := ⟨0, 0, 0⟩

/-- `to_packed` as a 32-bit word `0x00RRGGBB` (R77). -/
def toPacked (c : Color) : Word := (0 : BitVec 8) ++ c.r ++ c.g ++ c.b

/-- `from_packed`: bits [31:24] are ignored (R78). -/
def fromPacked (p : Word) : Color :=
  ⟨p.extractLsb' 16 8, p.extractLsb' 8 8, p.extractLsb' 0 8⟩

/-- The color with every channel `s`: how a scalar operand meets a color (R76, R81, R83, R85). -/
def ofScalar (s : Byte) : Color := ⟨s, s, s⟩

/-- Apply a channel operation to the three channels, each on its own (R88). -/
def map₂ (f : Byte → Byte → Byte) (c d : Color) : Color := ⟨f c.r d.r, f c.g d.g, f c.b d.b⟩

/-- `min(a + b, 255)`, the sum taken before the clamp (R80). -/
def satAdd (a b : Byte) : Byte := BitVec.ofNat 8 (min (a.toNat + b.toNat) 255)

/-- `max(a - b, 0)`, the difference taken in ℤ before the clamp (R82). -/
def satSub (a b : Byte) : Byte := BitVec.ofInt 8 (max ((a.toNat : Int) - b.toNat) 0)

/-- `min(a * b, 255)`, the product taken before the clamp, no scaling (R84). -/
def satMul (a b : Byte) : Byte := BitVec.ofNat 8 (min (a.toNat * b.toNat) 255)

/-- color `+` color (R80). -/
def add (c d : Color) : Color := map₂ satAdd c d
/-- color `+` scalar (R81). -/
def addScalar (c : Color) (s : Byte) : Color := add c (ofScalar s)
/-- color `-` color (R82). -/
def sub (c d : Color) : Color := map₂ satSub c d
/-- color `-` scalar (R83). -/
def subScalar (c : Color) (s : Byte) : Color := sub c (ofScalar s)
/-- color `*` color (R84). -/
def mul (c d : Color) : Color := map₂ satMul c d
/-- color `*` scalar (R85). -/
def mulScalar (c : Color) (s : Byte) : Color := mul c (ofScalar s)
/-- `++`: every channel one up, saturating (R86). -/
def inc (c : Color) : Color := add c (ofScalar 1)
/-- `--`: every channel one down, saturating (R87). -/
def dec (c : Color) : Color := sub c (ofScalar 1)

end Color
end Sys2Proof
end

