-- ==== Sys2Proof/Machine/Operands.lean ====
section
/-! DEFINITION. Every operand form of a packet, read and written in one place (30_encoding.md R60 to R67, 20_memory.md
R45): the header's fields, the operand words XY, CR, POS, FONT and DIM, the COLOR word (Machine/Color.lean) and the
payload bytes. No field is scaled, and only POS is signed (R67). -/

namespace Sys2Proof

/-- `ceil4 n = (n + 3) div 4`: the words that hold `n` payload bytes (R15, R45). -/
def ceil4 (n : Nat) : Nat := (n + 3) / 4

namespace Operand

/-- `w0[31:24]`, the opcode (R57). -/
def opcode (w : Word) : Byte := w.extractLsb' 24 8
/-- `w[23:0]`: `imm24`, `count`, or the font id of a FONT word (R60, R65). -/
def low24 (w : Word) : BitVec 24 := w.extractLsb' 0 24
/-- `w[31:24]`: reserved in a FONT word (R65). -/
def top8 (w : Word) : Byte := w.extractLsb' 24 8
/-- `w[23:8]`: reserved in the formats I8 and I8W (R60). -/
def mid16 (w : Word) : BitVec 16 := w.extractLsb' 8 16
/-- `w[7:0]`: `idx` or `code` (R60). -/
def low8 (w : Word) : Byte := w.extractLsb' 0 8
/-- `w0[15:8]`: `fg` in the formats G, GXY and GF (R60). -/
def fgField (w : Word) : Byte := w.extractLsb' 8 8
/-- `w0[23:16]`: `bg` in the formats G, GXY and GF (R60). -/
def bgField (w : Word) : Byte := w.extractLsb' 16 8
/-- `w[15:0]`: `x`, `col` or `w` of an XY, CR or DIM word (R62, R63, R66). -/
def lowHalf (w : Word) : BitVec 16 := w.extractLsb' 0 16
/-- `w[31:16]`: `y`, `row` or `h` of an XY, CR or DIM word (R62, R63, R66). -/
def highHalf (w : Word) : BitVec 16 := w.extractLsb' 16 16

/-- `sint32`: a POS word as a two's-complement integer (R15, R64). -/
def sint32 (w : Word) : Int := w.toInt

/-- A header of format I24 or L: `{op, imm24}` (R60). -/
def header24 (op : Byte) (imm : BitVec 24) : Word := op ++ imm
/-- A header of format I8 or I8W: `{op, 0[23:8], idx}` (R60). -/
def header8 (op : Byte) (idx : Byte) : Word := op ++ (0 : BitVec 16) ++ idx
/-- A header of format G, GXY or GF: `{op, bg, fg, code}` (R60). -/
def headerG (op bg fg code : Byte) : Word := op ++ bg ++ fg ++ code
/-- An XY, CR or DIM word, or the response of GET_CURSOR and FONT_SIZE: `{hi[31:16], lo[15:0]}` (R62, R63, R66, R69). -/
def halves (hi lo : BitVec 16) : Word := hi ++ lo

/-- The four payload bytes of a word, the lowest-numbered in the lowest bits (R45). -/
def bytesOf (w : Word) : List Byte :=
  [w.extractLsb' 0 8, w.extractLsb' 8 8, w.extractLsb' 16 8, w.extractLsb' 24 8]

/-- `byte(0) .. byte(n-1)` of a payload; the padding bytes of the last word are dropped (R18, R45). -/
def unpack (n : Nat) (ws : List Word) : List Byte := (ws.flatMap bytesOf).take n

/-- Four payload bytes as one word (R45). -/
def packWord (b0 b1 b2 b3 : Byte) : Word := b3 ++ b2 ++ b1 ++ b0

/-- A byte sequence packed four to a word, zero padding in the last word (R45). -/
def pack : List Byte → List Word
  | [] => []
  | [a] => [packWord a 0 0 0]
  | [a, b] => [packWord a b 0 0]
  | [a, b, c] => [packWord a b c 0]
  | a :: b :: c :: d :: rest => packWord a b c d :: pack rest

end Operand
end Sys2Proof
end

