-- ==== Sys2Proof/Syntax.lean ====
section
/-! DEFINITION. The commands of the core, one constructor per row of spec/opcode_table.json (30_encoding.md R68), with the
operands the packet carries. Reserved bits, the ignored top byte of a COLOR word and payload padding are no operands. -/

namespace Sys2Proof

/-- A command (R2, R68). `pix` is `byte(0), byte(1), …` of the payload; `x y` of a POS pair are the raw words w1 and w2. -/
inductive Instr where
  /-- SET_MODE, opcode 0x01 (R107). -/
  | setMode (mode : Id24)
  /-- SET_PALETTE, opcode 0x02: the count is the list's length (R112). -/
  | setPalette (colors : List Color)
  /-- SET_COLOR, opcode 0x03 (R113). -/
  | setColor (idx : Byte) (color : Color)
  /-- GET_COLOR, opcode 0x04 (R114). -/
  | getColor (idx : Byte)
  /-- RESET_PALETTE, opcode 0x05 (R115). -/
  | resetPalette
  /-- SET_PIXEL, opcode 0x10 (R119). -/
  | setPixel (idx : Byte) (x y : BitVec 16)
  /-- GET_PIXEL, opcode 0x11 (R120). -/
  | getPixel (x y : BitVec 16)
  /-- BLIT_FULL, opcode 0x12: the count is the list's length (R121). -/
  | blitFull (pix : List Byte)
  /-- BLIT_SPRITE, opcode 0x13 (R125). -/
  | blitSprite (x y : Word) (w h : BitVec 16) (pix : List Byte)
  /-- PUTCHAR_AT, opcode 0x20 (R126). -/
  | putcharAt (code fg bg : Byte) (x y : Word)
  /-- PUTCHAR, opcode 0x21 (R127). -/
  | putchar (code fg bg : Byte)
  /-- SET_CURSOR, opcode 0x22 (R129). -/
  | setCursor (col row : BitVec 16)
  /-- GET_CURSOR, opcode 0x23 (R130). -/
  | getCursor
  /-- SET_FONT, opcode 0x24 (R131). -/
  | setFont (font : Id24)
  /-- GET_FONT, opcode 0x25 (R132). -/
  | getFont
  /-- GET_GLYPH, opcode 0x26 (R96). -/
  | getGlyph (font : Id24) (code fg bg : Byte)
  /-- FONT_SIZE, opcode 0x27 (R97). -/
  | fontSize (font : Id24)
  /-- SHOW, opcode 0x30 (R133). -/
  | showFrame
  deriving DecidableEq, Repr

end Sys2Proof
end

