-- ==== Sys2Proof/WellFormed.lean ====
section
/-! DEFINITION. Which commands a packet can carry: what the types of Instr's fields do not already say
(30_encoding.md R58, R60, R66, R67). -/

namespace Sys2Proof

/-- `i` has a packet: a count fits its 24-bit field (R60, R67), and a sprite carries exactly `w*h` pixels (R58, R125).
A zero width or height can be encoded (R66). -/
def Instr.wellFormed (i : Instr) : Bool :=
  match i with
  | .setPalette colors => decide (colors.length < 2 ^ 24)
  | .blitFull pix => decide (pix.length < 2 ^ 24)
  | .blitSprite _ _ w h pix => decide (pix.length = w.toNat * h.toNat)
  | .setMode _ | .setColor _ _ | .getColor _ | .resetPalette | .setPixel _ _ _ | .getPixel _ _
  | .putcharAt _ _ _ _ _ | .putchar _ _ _ | .setCursor _ _ | .getCursor | .setFont _ | .getFont
  | .getGlyph _ _ _ _ | .fontSize _ | .showFrame => true

/-- `i.wellFormed` as a proposition. -/
abbrev Instr.WellFormed (i : Instr) : Prop := i.wellFormed = true

end Sys2Proof
end

