-- ==== Sys2Proof/Decode.lean ====
section
/-! DEFINITION. The packet decoder and the encoder (30_encoding.md R57 to R72). The unit of the command stream is the
32-bit word (R47), so the decoder reads a list of words; it is total: a stream holds too few words for its first packet,
or the packet is illegal and of known length, or it is a command. -/

namespace Sys2Proof

/-- The header formats of R60. -/
inductive Format where
  | n | i24 | i8 | i8w | w | lColors | lBytes | s | g | gxy | gf
  deriving DecidableEq, Repr

/-- The rows of the opcode map (R68). -/
inductive Op where
  | setMode | setPalette | setColor | getColor | resetPalette
  | setPixel | getPixel | blitFull | blitSprite
  | putcharAt | putchar | setCursor | getCursor | setFont | getFont | getGlyph | fontSize
  | showFrame
  deriving DecidableEq, Repr

/-- The opcode map: opcode and format of every row, in the table's order (R68). -/
def opcodeMap : List (Byte × Op × Format) :=
  [(0x01, .setMode, .i24), (0x02, .setPalette, .lColors), (0x03, .setColor, .i8w), (0x04, .getColor, .i8),
   (0x05, .resetPalette, .n)] ++
  [(0x10, .setPixel, .i8w), (0x11, .getPixel, .w), (0x12, .blitFull, .lBytes), (0x13, .blitSprite, .s)] ++
  [(0x20, .putcharAt, .gxy), (0x21, .putchar, .g), (0x22, .setCursor, .w), (0x23, .getCursor, .n),
   (0x24, .setFont, .i24), (0x25, .getFont, .n), (0x26, .getGlyph, .gf), (0x27, .fontSize, .i24),
   (0x30, .showFrame, .n)]

/-- The row of an opcode, none for an opcode R68 does not list. -/
def rowOf (op : Byte) : Option (Op × Format) := (opcodeMap.find? (fun row => row.1 == op)).map (·.2)

/-- Why a packet is illegal (R70): its opcode is not listed, or a reserved bit of a listed one is not zero. -/
inductive Illegal where
  | unknownOpcode
  | reservedBit
  deriving DecidableEq, Repr

/-- What the decoder makes of the words received: `len` is how many of them the first packet takes. -/
inductive Decoded where
  /-- the packet's last word has not arrived (R59) -/
  | incomplete
  /-- the packet raises IllegalCommand (R70) -/
  | illegal (why : Illegal) (len : Nat)
  /-- the packet is this command -/
  | command (i : Instr) (len : Nat)
  deriving DecidableEq, Repr

/-- `wk`, the word `k` of a packet (R18); 0 where the list has none, which the decoder never reads. -/
def wordAt (ws : List Word) (k : Nat) : Word := ws.getD k 0

/-- The payload bytes of a sprite packet, `w*h` of its DIM word w3 (R58, R66). -/
def spriteArea (ws : List Word) : Nat :=
  (Operand.lowHalf (wordAt ws 3)).toNat * (Operand.highHalf (wordAt ws 3)).toNat

/-- The length in words of a packet of format `f`, given the words received, of which there is one at least (R58).
None while the word the length depends on has not arrived: `w3`, in format S alone. -/
def formatLen (f : Format) (ws : List Word) : Option Nat :=
  match f with
  | .n | .i24 | .i8 | .g => some 1
  | .i8w | .w | .gf => some 2
  | .gxy => some 3
  | .lColors => some (1 + (Operand.low24 (wordAt ws 0)).toNat)
  | .lBytes => some (1 + ceil4 (Operand.low24 (wordAt ws 0)).toNat)
  | .s => if ws.length < 4 then none else some (4 + ceil4 (spriteArea ws))

/-- The length in words of the packet that the words received begin, none while it is not known (R58). -/
def packetLen (ws : List Word) : Option Nat :=
  match ws with
  | [] => none
  | w0 :: _ =>
    match rowOf (Operand.opcode w0) with
    | none => some 1
    | some (_, f) => formatLen f ws

/-- Every reserved bit of the packet is zero (R60, R65, R70). -/
def reservedZero (f : Format) (ws : List Word) : Bool :=
  match f with
  | .n | .w | .s => Operand.low24 (wordAt ws 0) == 0
  | .i8 | .i8w => Operand.mid16 (wordAt ws 0) == 0
  | .gf => Operand.top8 (wordAt ws 1) == 0
  | .i24 | .lColors | .lBytes | .g | .gxy => true

/-- The command of a whole packet of row `op`: its operands from their fields (R60 to R68). -/
def build (op : Op) (ws : List Word) : Instr :=
  let w0 := wordAt ws 0
  let w1 := wordAt ws 1
  let w2 := wordAt ws 2
  let w3 := wordAt ws 3
  match op with
  | .setMode => .setMode (Operand.low24 w0)
  | .setPalette => .setPalette (((ws.drop 1).take (Operand.low24 w0).toNat).map Color.fromPacked)
  | .setColor => .setColor (Operand.low8 w0) (Color.fromPacked w1)
  | .getColor => .getColor (Operand.low8 w0)
  | .resetPalette => .resetPalette
  | .setPixel => .setPixel (Operand.low8 w0) (Operand.lowHalf w1) (Operand.highHalf w1)
  | .getPixel => .getPixel (Operand.lowHalf w1) (Operand.highHalf w1)
  | .blitFull => .blitFull (Operand.unpack (Operand.low24 w0).toNat (ws.drop 1))
  | .blitSprite =>
    .blitSprite w1 w2 (Operand.lowHalf w3) (Operand.highHalf w3) (Operand.unpack (spriteArea ws) (ws.drop 4))
  | .putcharAt => .putcharAt (Operand.low8 w0) (Operand.fgField w0) (Operand.bgField w0) w1 w2
  | .putchar => .putchar (Operand.low8 w0) (Operand.fgField w0) (Operand.bgField w0)
  | .setCursor => .setCursor (Operand.lowHalf w1) (Operand.highHalf w1)
  | .getCursor => .getCursor
  | .setFont => .setFont (Operand.low24 w0)
  | .getFont => .getFont
  | .getGlyph =>
    .getGlyph (Operand.low24 w1) (Operand.low8 w0) (Operand.fgField w0) (Operand.bgField w0)
  | .fontSize => .fontSize (Operand.low24 w0)
  | .showFrame => .showFrame

/-- A whole packet: the command it spells, or IllegalCommand's cause (R70). -/
def decodePacket (ws : List Word) : Illegal ⊕ Instr :=
  match rowOf (Operand.opcode (wordAt ws 0)) with
  | none => .inl .unknownOpcode
  | some (op, f) => if reservedZero f ws then .inr (build op ws) else .inl .reservedBit

/-- Decode the first packet of a word stream. An illegal packet of a listed opcode still takes its full length (R70). -/
def decode (ws : List Word) : Decoded :=
  match packetLen ws with
  | none => .incomplete
  | some n =>
    if ws.length < n then .incomplete
    else
      match decodePacket (ws.take n) with
      | .inl why => .illegal why n
      | .inr i => .command i n

/-- The packet of a command (R60 to R68): reserved bits, the top byte of a COLOR word and payload padding are 0. -/
def encode (i : Instr) : List Word :=
  match i with
  | .setMode m => [Operand.header24 0x01 m]
  | .setPalette colors => Operand.header24 0x02 (BitVec.ofNat 24 colors.length) :: colors.map Color.toPacked
  | .setColor idx c => [Operand.header8 0x03 idx, Color.toPacked c]
  | .getColor idx => [Operand.header8 0x04 idx]
  | .resetPalette => [Operand.header24 0x05 0]
  | .setPixel idx x y => [Operand.header8 0x10 idx, Operand.halves y x]
  | .getPixel x y => [Operand.header24 0x11 0, Operand.halves y x]
  | .blitFull pix => Operand.header24 0x12 (BitVec.ofNat 24 pix.length) :: Operand.pack pix
  | .blitSprite x y w h pix => Operand.header24 0x13 0 :: x :: y :: Operand.halves h w :: Operand.pack pix
  | .putcharAt code fg bg x y => [Operand.headerG 0x20 bg fg code, x, y]
  | .putchar code fg bg => [Operand.headerG 0x21 bg fg code]
  | .setCursor col row => [Operand.header24 0x22 0, Operand.halves row col]
  | .getCursor => [Operand.header24 0x23 0]
  | .setFont f => [Operand.header24 0x24 f]
  | .getFont => [Operand.header24 0x25 0]
  | .getGlyph f code fg bg => [Operand.headerG 0x26 bg fg code, Operand.header24 0 f]
  | .fontSize f => [Operand.header24 0x27 f]
  | .showFrame => [Operand.header24 0x30 0]

/-- The low `k` words of a number, the first word in the lowest bits. -/
def wordsOfNat : Nat → Nat → List Word
  | 0, _ => []
  | k + 1, w => BitVec.ofNat 32 w :: wordsOfNat k (w / 2 ^ 32)

/-- The packet whose first `nbits` bits are those of `w` and whose further bits are 0: as many words as the packet's
own length asks for. -/
def tableWords (nbits w : Nat) : List Word :=
  let given := wordsOfNat ((nbits + 31) / 32) (w % 2 ^ nbits)
  let base := given ++ List.replicate (4 - given.length) 0
  let n := (packetLen base).getD 1
  given ++ List.replicate (n - given.length) 0

/-- The command this decoder reads from an instruction whose bits are `w`, numbered as spec/opcode_table.json numbers them. -/
def decodeTableWord (nbits w : Nat) : Option Instr :=
  match decode (tableWords nbits w) with
  | .command i _ => some i
  | .illegal _ _ | .incomplete => none

end Sys2Proof
end

