-- ==== Sys2Proof/Config.lean ====
section
/-! DEFINITION. The parameters of a core (00_scope.md R11): the configuration it is built from, which is an argument of the
model, and the values the spec leaves free. The lookups and the spec's default configuration stand in
Machine/Tables.lean. -/

namespace Sys2Proof

/-- A record of `MODE_TABLE` (R11, R12): the framebuffer's size, the number of palette entries, the default font. -/
structure ModeRecord where
  W     : Nat
  H     : Nat
  NC    : Nat
  FONT0 : Id24
  deriving DecidableEq, Repr

/-- The glyph ROM of a font (R13, R32). -/
inductive GlyphRom where
  /-- these bytes -/
  | listed (bytes : List Byte)
  /-- so many bytes that the spec leaves OPEN: the free value `Config.glyphRom` (log entry 9) -/
  | unstated (length : Nat)
  deriving DecidableEq, Repr

/-- A record of `FONT_TABLE` (R13): the glyph's size and the glyph ROM. -/
structure FontRecord where
  GW  : Nat
  GH  : Nat
  ROM : GlyphRom
  deriving DecidableEq, Repr

/-- The configuration a core is built from (R11, R36): immutable data, an argument of the model. `TEXT_MODE_COLORS` is
the `NC` of a record of `MODE_TABLE` and the argument of the default configuration. -/
structure Configuration where
  MODE_TABLE : List (Id24 × ModeRecord)
  FONT_TABLE : List (Id24 × FontRecord)
  RESET_MODE : Id24
  DEFAULT16  : List Color
  deriving DecidableEq, Repr

namespace Config

/-- `SurfaceAcquire` (R11, D15): the outcome of the `n`-th acquisition of a presentation surface, success or failure.
A FREE VALUE: no body, so nothing can be proved of it. Log entry 4. -/
opaque surfaceAcquire : Nat → Bool

/-- `VramInit` (R11, D13): what cell `a` of the `n`-th allocation of VRAM holds before it is written, to be read
modulo the mode's `NC`. A FREE VALUE: no body. Log entry 5. -/
opaque vramInit : Nat → Nat → Nat

/-- The ROM contents of the fonts whose bytes the spec leaves OPEN (R13): byte `a` of font `f`.
A FREE VALUE: no body. Log entry 9. -/
opaque glyphRom : Id24 → Nat → Byte

/-- The high half of FONT_SIZE's response for a font of height 65536 or more, which its 16-bit field cannot hold and of
which the spec states no result (R69, R97). A FREE VALUE: no body. Log entry 23. -/
opaque tallFontHeight : Nat → BitVec 16

end Config
end Sys2Proof
end

