-- ==== Sys2Proof/Machine/Tables.lean ====
section
/-! DEFINITION. Reading a configuration (00_scope.md R11 to R14): the lookups of its tables, the glyph ROM, the default
palette, when a configuration is well formed; and the spec's default configuration. Configuration is not state (R36):
no command writes any of it. -/

namespace Sys2Proof
namespace Configuration

/-- The record of a key in a table with unique keys. -/
def find? {α : Type} (table : List (Id24 × α)) (id : Id24) : Option α :=
  (table.find? (fun row => row.1 == id)).map (·.2)

/-- `MODE_TABLE[m]`, none when `m` is no key. -/
def mode? (c : Configuration) (m : Id24) : Option ModeRecord := find? c.MODE_TABLE m

/-- `FONT_TABLE[f]`, none when `f` is no key. -/
def font? (c : Configuration) (f : Id24) : Option FontRecord := find? c.FONT_TABLE f

/-- The record that stands for a mode id outside `MODE_TABLE`: no cell and no color, so every access is rejected.
No run reaches it (the invariant of Safety.lean). Log entry 10. -/
def noMode : ModeRecord := ⟨0, 0, 0, 0⟩

/-- The record that stands for a font id outside `FONT_TABLE`: a glyph of no pixel. No run reaches it. Log entry 10. -/
def noFont : FontRecord := ⟨0, 0, .listed []⟩

/-- `MODE_TABLE[m]` where `m` is a key. -/
def modeRecord (c : Configuration) (m : Id24) : ModeRecord := (c.mode? m).getD noMode

/-- `FONT_TABLE[f]` where `f` is a key. -/
def fontRecord (c : Configuration) (f : Id24) : FontRecord := (c.font? f).getD noFont

/-- `|ROM|` (R13). -/
def romLength (R : GlyphRom) : Nat :=
  match R with
  | .listed bytes => bytes.length
  | .unstated n => n

/-- `GLYPH(f, a)`: byte `a` of font `f`'s ROM (R16, R32). Past the end of a ROM, which no glyph of a well-formed font
reads (R43), it is 0. Log entry 10. -/
def rom (c : Configuration) (f : Id24) (a : Nat) : Byte :=
  match (c.fontRecord f).ROM with
  | .listed bytes => bytes.getD a 0
  | .unstated _ => Config.glyphRom f a

/-- Entry `i` of the default palette of any size: the sixteen defaults, then black (R29). -/
def defaultColor (c : Configuration) (i : Nat) : Color :=
  if i < 16 then c.DEFAULT16.getD i ⟨0, 0, 0⟩ else ⟨0, 0, 0⟩

/-- `DefaultPalette(NC)` (R29). -/
def defaultPalette (c : Configuration) (nc : Nat) : List Color := (List.range nc).map c.defaultColor

/-- A well-formed font record (R13, R95). -/
abbrev fontOk (F : FontRecord) : Prop := (F.GW = 8 ∨ F.GW = 9) ∧ 1 ≤ F.GH ∧ F.GH * 256 ≤ romLength F.ROM

/-- Font `F` fits mode `M`: the grid has at least one column and one row (R12, R25, R131). -/
abbrev fits (F : FontRecord) (M : ModeRecord) : Prop := F.GW ≤ M.W ∧ F.GH ≤ M.H

/-- A well-formed mode record (R12, D25). -/
abbrev modeOk (c : Configuration) (M : ModeRecord) : Prop :=
  (1 ≤ M.W ∧ M.W ≤ 65535) ∧ (1 ≤ M.H ∧ M.H ≤ 65535) ∧ M.W * M.H ≤ 2 ^ 24 - 1 ∧ (M.NC = 16 ∨ M.NC = 256) ∧
    (c.font? M.FONT0).any (fun F => decide (fits F M)) = true

/-- A configuration a core may be built from (R12, R95, R157): unique keys, every record well formed, a legal reset
mode, sixteen default colors. -/
abbrev ok (c : Configuration) : Prop :=
  (c.MODE_TABLE.map (·.1)).Nodup ∧ (c.FONT_TABLE.map (·.1)).Nodup ∧ (∀ row ∈ c.MODE_TABLE, c.modeOk row.2) ∧
    (∀ row ∈ c.FONT_TABLE, fontOk row.2) ∧ (c.mode? c.RESET_MODE).isSome = true ∧ c.DEFAULT16.length = 16

end Configuration

namespace Config

/-- `RESET_MODE` of the default configuration (R157): OPEN, the spec's default taken. DESIGN CHOICE, log entry 7. -/
def RESET_MODE : Id24 := 0x000001

/-- `TEXT_MODE_COLORS` of the default configuration (R11): OPEN in 16 or 256, the spec's default taken. DESIGN CHOICE,
log entry 7. -/
def TEXT_MODE_COLORS : Nat := 16

/-- `DEFAULT16` of the default configuration (R14): the order is the spec's; the RGB values are the spec's general
knowledge. PRESUMED, log entry 8. -/
def DEFAULT16 : List Color :=
  [⟨0x00, 0x00, 0x00⟩, ⟨0x00, 0x00, 0xAA⟩, ⟨0x00, 0xAA, 0x00⟩, ⟨0x00, 0xAA, 0xAA⟩,
   ⟨0xAA, 0x00, 0x00⟩, ⟨0xAA, 0x00, 0xAA⟩, ⟨0xAA, 0x55, 0x00⟩, ⟨0xAA, 0xAA, 0xAA⟩] ++
  [⟨0x55, 0x55, 0x55⟩, ⟨0x55, 0x55, 0xFF⟩, ⟨0x55, 0xFF, 0x55⟩, ⟨0x55, 0xFF, 0xFF⟩,
   ⟨0xFF, 0x55, 0x55⟩, ⟨0xFF, 0x55, 0xFF⟩, ⟨0xFF, 0xFF, 0x55⟩, ⟨0xFF, 0xFF, 0xFF⟩]

/-- The default `MODE_TABLE`: the three modes of R12, the text mode with `textColors` colors, and the two that
95_test_vectors.md section 2 has a model add. DESIGN CHOICE, log entry 7. -/
def MODE_TABLE (textColors : Nat) : List (Id24 × ModeRecord) :=
  [(0x000001, ⟨320, 200, 256, 0x000001⟩),
   (0x000002, ⟨640, 480, 16, 0x000003⟩),
   (0x000003, ⟨720, 400, textColors, 0x000004⟩),
   (0x000080, ⟨16, 8, 16, 0x000010⟩),
   (0x000081, ⟨18, 4, 256, 0x000011⟩)]

/-- The ROM of the test fonts `0x10` and `0x11`: `ROM[2c] = c` and `ROM[2c+1] = 0x80` (95_test_vectors.md section 2). -/
def testRom : GlyphRom :=
  .listed ((List.range 512).map (fun a => if a % 2 = 0 then BitVec.ofNat 8 (a / 2) else 0x80))

/-- The default `FONT_TABLE`: the four fonts of R13, and the two that 95_test_vectors.md section 2 has a model add.
DESIGN CHOICE and PRESUMED, log entries 7 and 9. -/
def FONT_TABLE : List (Id24 × FontRecord) :=
  [(0x000001, ⟨8, 8, .unstated (8 * 256)⟩),
   (0x000002, ⟨8, 14, .unstated (14 * 256)⟩),
   (0x000003, ⟨8, 16, .unstated (16 * 256)⟩),
   (0x000004, ⟨9, 16, .unstated (16 * 256)⟩),
   (0x000010, ⟨8, 2, testRom⟩),
   (0x000011, ⟨9, 2, testRom⟩)]

/-- The spec's default configuration, for either value of `TEXT_MODE_COLORS` (R11). -/
def withTextColors (textColors : Nat) : Configuration :=
  { MODE_TABLE := MODE_TABLE textColors
    FONT_TABLE := FONT_TABLE
    RESET_MODE := RESET_MODE
    DEFAULT16 := DEFAULT16 }

/-- The configuration of `State.reset`. DESIGN CHOICE, log entry 7. -/
def default : Configuration := withTextColors TEXT_MODE_COLORS

end Config
end Sys2Proof
end

