-- ==== Sys2Proof/Machine/State.lean ====
section
/-! DEFINITION. The state of the core and of its ports as plain data (10_state.md R20 to R37, 60_exceptions.md R137,
R147, R148), the reasons a step can stop, and the state after reset (70_reset_and_hazards.md R156). -/

namespace Sys2Proof
namespace Machine

/-- Why a step stops with a fault: never. The core has no trap and no dead state: every error is a completion after
which it goes on (R140, R142, 90_conflicts.md C10), and an unfinished packet is a hold, not a fault (R154, R163).
So this closed type has no constructor. -/
inductive Fault where
  deriving DecidableEq, Repr

/-- Why a step has no meaning. -/
inductive Refusal where
  /-- Raised by exec alone, for a row of the opcode table without a meaning yet; safe. Every row has one. -/
  | notModelled (mnemonic : String)
  deriving DecidableEq, Repr

/-- The status of a completion (R137); its numbers are `Status.code` of Flags.lean. -/
inductive Status where
  | ok
  | invalidArgument
  | outOfRange
  | unknownMode
  | resourceCreationFailed
  | illegalCommand
  deriving DecidableEq, Repr

/-- What the completion port gives the host for one packet (R137). -/
structure Completion where
  status : Status
  data   : List Word
  deriving DecidableEq, Repr

/-- A frame handed to the presentation port: `W*H` words `0x00RRGGBB`, the pitch in bytes (R133, R148). -/
structure Frame where
  pixels : List Word
  width  : Nat
  height : Nat
  pitch  : Nat
  deriving DecidableEq, Repr

/-- What the presentation port carries, in the order the core makes it (R148). -/
inductive PortEvent where
  /-- SET_MODE gives up the held surface -/
  | release
  /-- reset or SET_MODE asks for a surface; the answer is `Config.surfaceAcquire` -/
  | acquire (width height : Nat)
  /-- SHOW hands over a frame -/
  | present (frame : Frame)
  deriving DecidableEq, Repr

/-- The state (R37) with the core's three ports (R38), and the configuration the core is built from. The last two fields
are the model's own: they say which free value is drawn next (log entries 4 and 5). -/
structure State where
  /-- the configuration, the model's argument: no state of the core, and nothing writes it (R36; log entry 24) -/
  config : Configuration
  /-- `MODE`, the current video mode's id (R24) -/
  mode : Id24
  /-- `FONT`, the active font's id (R25) -/
  font : Id24
  /-- `CUR_COL` (R26) -/
  curCol : BitVec 16
  /-- `CUR_ROW` (R26) -/
  curRow : BitVec 16
  /-- `SURF`: the core holds a presentation surface (R33) -/
  surf : Bool
  /-- palette RAM, `PAL[0], PAL[1], …`: `NC` entries (R28) -/
  pal : List Color
  /-- VRAM: the cells written since the last allocation, addresses rising; every other cell is unspecified (R30, R107) -/
  vram : List Host.Cell
  /-- the packet buffer: the words received of a packet that is not complete (R35) -/
  packetBuf : List Word
  /-- the command port: words the host has sent and the core has not received, oldest first (R147) -/
  port : List Word
  /-- the completion port: every completion so far, oldest first (R137) -/
  completions : List Completion
  /-- the presentation port: every event so far, oldest first (R148); the frame log of R34 is its `present` events -/
  portLog : List PortEvent
  /-- the model's own: how many surface acquisitions have been drawn -/
  acquisitions : Nat
  /-- the model's own: the number of the current VRAM allocation -/
  vramEpoch : Nat
  deriving DecidableEq, Repr

/-- The state after a reset of a core built from `c` (R37, R156), the draws numbered from `acq` and `epoch`. -/
def State.resetWith (c : Configuration) (acq epoch : Nat) : State :=
  let M := c.modeRecord c.RESET_MODE
  { config := c
    mode := c.RESET_MODE
    font := M.FONT0
    curCol := 0
    curRow := 0
    surf := Config.surfaceAcquire acq
    pal := c.defaultPalette M.NC
    vram := []
    packetBuf := []
    port := []
    completions := []
    portLog := [.acquire M.W M.H]
    acquisitions := acq + 1
    vramEpoch := epoch }

/-- The state after reset (R37, R156) of the core of the spec's default configuration, with the first draws. -/
def State.reset : State := State.resetWith Config.default 0 0

end Machine
end Sys2Proof
end

