-- ==== Sys2Proof/Machine/Flags.lean ====
section
/-! DEFINITION. The core has no flag and no condition code (10_state.md R23): what a command leaves is the status of its
completion. Its numbers and the order of the checks: 60_exceptions.md R137, R139. -/

namespace Sys2Proof
namespace Machine

/-- The 8-bit status code (R137). Codes 6 to 255 are never produced. -/
def Status.code : Status → Byte
  | .ok => 0
  | .invalidArgument => 1
  | .outOfRange => 2
  | .unknownMode => 3
  | .resourceCreationFailed => 4
  | .illegalCommand => 5

/-- The place of an error in the fixed check order, the first reported lowest (R139); success comes after every check. -/
def Status.checkOrder : Status → Nat
  | .illegalCommand => 1
  | .invalidArgument => 2
  | .unknownMode => 3
  | .outOfRange => 4
  | .resourceCreationFailed => 5
  | .ok => 6

end Machine
end Sys2Proof
end

