-- ==== Sys2Proof/Machine/Ops.lean ====
section
/-! DEFINITION. The named operations over the state that the meanings share: completions and errors, the values read
through MODE and FONT, VRAM, palette RAM, the cursor, the surface hand-over, the presentation port and the command port. -/

namespace Sys2Proof
namespace Machine

/-! ## VRAM as data: cells by rising address -/
namespace Memory

/-- The one form of a memory: addresses strictly rising. An address without an entry has not been written since the
allocation, which reads as `none`, so no entry equals what an unlisted address reads as (log entry 6). -/
abbrev wf (m : List Host.Cell) : Prop := List.Pairwise (fun c d => c.1 < d.1) m

/-- What has been written at `a`, none when nothing has. -/
def read? (m : List Host.Cell) (a : Nat) : Option Byte := (m.find? (fun c => c.1 == a)).map (·.2)

/-- Consecutive cells from `start`. -/
def run (start : Nat) : List Byte → List Host.Cell
  | [] => []
  | b :: bs => (start, b) :: run (start + 1) bs

/-- Write the bytes `bs` to `start, start + 1, …`. -/
def writeRun (start : Nat) (bs : List Byte) (m : List Host.Cell) : List Host.Cell :=
  m.filter (fun c => decide (c.1 < start)) ++ run start bs ++
    m.filter (fun c => decide (start + bs.length ≤ c.1))

end Memory

namespace State

/-! ## Completion: how a command ends -/

/-- The one completion of a packet goes out on the completion port (R137). -/
def complete (e : Status) (data : List Word) (s : State) : State :=
  { s with completions := s.completions ++ [⟨e, data⟩] }

/-- `respond`: the command succeeds with these response words (R17). -/
def respond (data : List Word) (s : State) : State := s.complete .ok data

/-- `raise`: the command ends with an error and no response word, and every other piece of state is as it stands
(R17, R140). There is no handler and no return from one (R140, R142). -/
def raise (e : Status) (s : State) : State := s.complete e []

/-! ## The values read through MODE and FONT (R16, R24, R25) -/

/-- `MODE_TABLE[MODE]`. -/
def modeRec (s : State) : ModeRecord := s.config.modeRecord s.mode
/-- The framebuffer's width. -/
def W (s : State) : Nat := s.modeRec.W
/-- The framebuffer's height. -/
def H (s : State) : Nat := s.modeRec.H
/-- The number of palette entries. -/
def NC (s : State) : Nat := s.modeRec.NC
/-- `FONT_TABLE[FONT]`. -/
def fontRec (s : State) : FontRecord := s.config.fontRecord s.font
/-- The active font's glyph width. -/
def GW (s : State) : Nat := s.fontRec.GW
/-- The active font's glyph height. -/
def GH (s : State) : Nat := s.fontRec.GH
/-- `C`, the grid's columns (R27). -/
def gridCols (s : State) : Nat := s.W / s.GW
/-- `R`, the grid's rows (R27). -/
def gridRows (s : State) : Nat := s.H / s.GH

/-! ## VRAM (R30, R39, R107) -/

/-- `addr(x, y) = x + W*y` (R39). -/
def addr (s : State) (x y : Nat) : Nat := x + s.W * y

/-- What a cell of the current allocation holds before it is written: a draw from `[0, NC)` (R107, D13). -/
def vramFree (s : State) (a : Nat) : Byte := BitVec.ofNat 8 (Config.vramInit s.vramEpoch a % s.NC)

/-- `MemRead(a, 1)` (R16): the byte written last, or the cell's unspecified value. -/
def vramRead (s : State) (a : Nat) : Byte := (Memory.read? s.vram a).getD (s.vramFree a)

/-- `MemWrite` of the bytes `bs` to consecutive addresses (R16). -/
def vramWriteRun (start : Nat) (bs : List Byte) (s : State) : State :=
  { s with vram := Memory.writeRun start bs s.vram }

/-- `MemWrite(a, 1, v)` (R16). -/
def vramWrite (a : Nat) (v : Byte) (s : State) : State := s.vramWriteRun a [v]

/-- Every byte is a palette index of the current mode, the check before any write (R31, D9). -/
def indicesOk (s : State) (pix : List Byte) : Bool := pix.all (fun p => decide (p.toNat < s.NC))

/-! ## Palette RAM (R28, R111) -/

/-- `Lookup(i)`: `PAL[i]`, none for `i >= NC`, where the palette has no entry (R28, R111). -/
def lookup (s : State) (i : Byte) : Option Color := s.pal[i.toNat]?

/-- `PAL[i] <- c`. -/
def setPal (i : Byte) (c : Color) (s : State) : State := { s with pal := s.pal.set i.toNat c }

/-- `PAL[0 .. n-1] <-` the `n` colors; the rest unchanged (R112). -/
def loadPal (colors : List Color) (s : State) : State :=
  { s with pal := colors ++ s.pal.drop colors.length }

/-- The default palette of the current mode (R29). -/
def restorePal (s : State) : State := { s with pal := s.config.defaultPalette s.NC }

/-! ## The cursor (R26, R128) -/

/-- `CUR_COL <- col` and `CUR_ROW <- row`. -/
def setCursor (col row : Nat) (s : State) : State :=
  { s with curCol := BitVec.ofNat 16 col, curRow := BitVec.ofNat 16 row }

/-- `Advance()`: one cell on, wrapping column then row, no scrolling (R128). -/
def advance (s : State) : State :=
  if s.curCol.toNat + 1 < s.gridCols then s.setCursor (s.curCol.toNat + 1) s.curRow.toNat
  else if s.curRow.toNat + 1 < s.gridRows then s.setCursor 0 (s.curRow.toNat + 1)
  else s.setCursor 0 0

/-! ## The presentation port (R148) -/

/-- One event goes out on the presentation port. -/
def emit (e : PortEvent) (s : State) : State := { s with portLog := s.portLog ++ [e] }

/-- The frame log: the frames presented so far, oldest first (R34). -/
def frameLog (s : State) : List Frame :=
  s.portLog.filterMap (fun e =>
    match e with
    | .present f => some f
    | .release | .acquire _ _ => none)

/-- The surface hand-over of SET_MODE to a mode of size `W`×`H` (R107, R109): the held surface is released, then a new
one is asked for, and `SURF` is the answer `granted`. -/
def handOver (M : ModeRecord) (granted : Bool) (s : State) : State :=
  let released := if s.surf then s.emit .release else s
  { released.emit (.acquire M.W M.H) with surf := granted, acquisitions := s.acquisitions + 1 }

/-- Enter mode `m` with record `M`: everything R107 writes after the surface is held. The VRAM is a new allocation,
none of its cells written. -/
def enterMode (m : Id24) (M : ModeRecord) (s : State) : State :=
  { s with
    mode := m
    pal := s.config.defaultPalette M.NC
    vram := []
    vramEpoch := s.vramEpoch + 1
    font := M.FONT0
    curCol := 0
    curRow := 0 }

/-- SET_MODE to a key `m` of the mode table, `granted` being the outcome of the acquisition (R107). -/
def switchMode (m : Id24) (M : ModeRecord) (granted : Bool) (s : State) : State :=
  if granted then ((s.handOver M granted).enterMode m M).respond []
  else (s.handOver M granted).raise .resourceCreationFailed

/-! ## The command port (R53, R59, R147) -/

/-- The words the core has before it: those of the packet buffer, then those of the command port. -/
def pending (s : State) : List Word := s.packetBuf ++ s.port

/-- The first `n` words before the core are a packet; it is taken off, and the buffer is empty. -/
def accept (n : Nat) (s : State) : State := { s with packetBuf := [], port := s.pending.drop n }

/-- The packet is not complete: its words so far are received into the buffer, and the core does nothing (R59). -/
def hold (s : State) : State := { s with packetBuf := s.pending, port := [] }

/-- The host sends words on the command port (R147, R154). -/
def hostSend (ws : List Word) (s : State) : State := { s with port := s.port ++ ws }

/-- A reset from outside the command set (R158): all state as R156 leaves it, the free values not drawn before. -/
def hostReset (s : State) : State := State.resetWith s.config s.acquisitions (s.vramEpoch + 1)

/-- Building a core from a configuration: an ill-formed one is refused, and a well-formed one gives a core at its reset
(R95, R156, R157). -/
def build? (c : Configuration) : Option State := if c.ok then some (State.resetWith c 0 0) else none

end State
end Machine
end Sys2Proof
end

