-- ==== Sys2Proof/Machine/Mode.lean ====
section
/-! DEFINITION. Mode control (43_mode.md R106 to R110). -/

namespace Sys2Proof
namespace Machine

/-- SET_MODE (R107): an unknown id changes nothing, not even SURF (R108); else the surface is handed over, and the mode
is entered if the acquisition succeeds. The outcome is the next draw of `SurfaceAcquire`. -/
def execSetMode (m : Id24) (s : State) : Host.Outcome State Fault Refusal :=
  .next (match s.config.mode? m with
    | none => s.raise .unknownMode
    | some M => s.switchMode m M (Config.surfaceAcquire s.acquisitions))

end Machine
end Sys2Proof
end

