-- ==== Sys2Proof/Machine/Palette.lean ====
section
/-! DEFINITION. The palette commands (44_palette.md R111 to R117). -/

namespace Sys2Proof
namespace Machine

/-- SET_PALETTE (R112): entries 0 to n-1; more than `NC` colors is an error and changes none. -/
def execSetPalette (colors : List Color) (s : State) : Host.Outcome State Fault Refusal :=
  .next (if s.NC < colors.length then s.raise .invalidArgument else (s.loadPal colors).respond [])

/-- SET_COLOR (R113). -/
def execSetColor (idx : Byte) (c : Color) (s : State) : Host.Outcome State Fault Refusal :=
  .next (if s.NC ≤ idx.toNat then s.raise .outOfRange else (s.setPal idx c).respond [])

/-- GET_COLOR (R114): `Lookup` has no value exactly where OutOfRange is raised (R111). -/
def execGetColor (idx : Byte) (s : State) : Host.Outcome State Fault Refusal :=
  .next (if s.NC ≤ idx.toNat then s.raise .outOfRange
    else
      match s.lookup idx with
      | none => s.raise .outOfRange
      | some c => s.respond [c.toPacked])

/-- RESET_PALETTE (R115). -/
def execResetPalette (s : State) : Host.Outcome State Fault Refusal :=
  .next (s.restorePal.respond [])

/-- A left rotation by one, which a host does with GET_COLOR and SET_PALETTE: `PAL'[i] = PAL[(i + 1) mod NC]` (R116). -/
def rotateLeft (p : List Color) : List Color := p.drop 1 ++ p.take 1

end Machine
end Sys2Proof
end

