-- ==== Sys2Proof/Machine/Resolve.lean ====
section
/-! DEFINITION. The indexed-to-RGB palette resolver (47_resolve.md R133 to R136) and a frame's bytes (20_memory.md R46). -/

namespace Sys2Proof
namespace Machine

/-- The color of cell `a`. The lookup has a value whenever the VRAM invariant holds (R31, R111); black stands for the
missing entry in states no run reaches (log entry 11). -/
def resolveCell (s : State) (a : Nat) : Word := ((s.lookup (s.vramRead a)).getD Color.black).toPacked

/-- The frame SHOW presents: every cell in address order through the palette (R133, R134). -/
def resolve (s : State) : Frame :=
  { pixels := (List.range (s.W * s.H)).map (resolveCell s)
    width := s.W
    height := s.H
    pitch := 4 * s.W }

/-- SHOW (R133): with no surface held no frame is presented. -/
def execShow (s : State) : Host.Outcome State Fault Refusal :=
  .next (if s.surf then (s.emit (.present (resolve s))).respond [] else s.raise .resourceCreationFailed)

/-- A frame as bytes, little-endian: b, g, r, 0 of each word in order (R46). -/
def Frame.bytes (f : Frame) : List Byte := f.pixels.flatMap Operand.bytesOf

end Machine
end Sys2Proof
end

