-- ==== Sys2Proof/Machine/Glyph.lean ====
section
/-! DEFINITION. The glyph bitmap rasterizer and its two commands (41_glyph.md R90 to R97). -/

namespace Sys2Proof
namespace Machine

/-- One row of a glyph: 8 pixels from bit 7 down, and a ninth that is `bg` when the font is 9 wide (R90 to R92). -/
def glyphRow (gw : Nat) (rowbyte fg bg : Byte) : List Byte :=
  (List.range 8).map (fun c => if rowbyte.getLsbD (7 - c) then fg else bg) ++ (if gw = 9 then [bg] else [])

/-- `Glyph(f, code, fg, bg)`: the rows from ROM bytes `GH*code + r` (R43, R90). -/
def glyph (c : Configuration) (f : Id24) (code fg bg : Byte) : List Byte :=
  (List.range (c.fontRecord f).GH).flatMap (fun r =>
    glyphRow (c.fontRecord f).GW (c.rom f ((c.fontRecord f).GH * code.toNat + r)) fg bg)

/-- GET_GLYPH (R96): neither `fg` nor `bg` is checked. -/
def execGetGlyph (font : Id24) (code fg bg : Byte) (s : State) : Host.Outcome State Fault Refusal :=
  .next (match s.config.font? font with
    | none => s.raise .invalidArgument
    | some _ => s.respond (Operand.pack (glyph s.config font code fg bg)))

/-- `GH` in the 16-bit field of FONT_SIZE's response (R69, R97). R13 bounds no font's height, and the spec states no
result for one that does not fit the field: that half is then a free value. DESIGN CHOICE, log entry 23. -/
def heightField (gh : Nat) : BitVec 16 := if gh < 2 ^ 16 then BitVec.ofNat 16 gh else Config.tallFontHeight gh

/-- FONT_SIZE (R97): `{GH[31:16], GW[15:0]}`. -/
def execFontSize (font : Id24) (s : State) : Host.Outcome State Fault Refusal :=
  .next (match s.config.font? font with
    | none => s.raise .invalidArgument
    | some F => s.respond [Operand.halves (heightField F.GH) (BitVec.ofNat 16 F.GW)])

end Machine
end Sys2Proof
end

