-- ==== Sys2Proof/Machine/Pixel.lean ====
section
/-! DEFINITION. Single-pixel access, the full-buffer blit and the sprite blit engine (45_pixel_blit.md R118 to R125). -/

namespace Sys2Proof
namespace Machine

/-- SET_PIXEL (R119): bounds-checked, never clamped or wrapped (R118). -/
def execSetPixel (idx : Byte) (x y : BitVec 16) (s : State) : Host.Outcome State Fault Refusal :=
  .next (if s.W ≤ x.toNat ∨ s.H ≤ y.toNat then s.raise .outOfRange
    else if s.NC ≤ idx.toNat then s.raise .outOfRange
    else (s.vramWrite (s.addr x.toNat y.toNat) idx).respond [])

/-- GET_PIXEL (R120). -/
def execGetPixel (x y : BitVec 16) (s : State) : Host.Outcome State Fault Refusal :=
  .next (if s.W ≤ x.toNat ∨ s.H ≤ y.toNat then s.raise .outOfRange
    else s.respond [(s.vramRead (s.addr x.toNat y.toNat)).setWidth 32])

/-- BLIT_FULL (R121): the count, then every byte, is checked before any write. -/
def execBlitFull (pix : List Byte) (s : State) : Host.Outcome State Fault Refusal :=
  .next (if pix.length ≠ s.W * s.H then s.raise .invalidArgument
    else if s.indicesOk pix then (s.vramWriteRun 0 pix).respond []
    else s.raise .outOfRange)

/-- The intersection of `[p, p + n)` with `[0, limit)` as `(first, count)`, computed in ℤ (R122). -/
def clipRange (p : Int) (n limit : Nat) : Nat × Nat :=
  ((max p 0).toNat, (min (p + n) limit - max p 0).toNat)

/-- Row `yy` of a sprite copy: the sprite's row `yy - y`, from column `x0 - x`, over `count` cells from `x0` (R122). -/
def spriteRow (x y : Int) (w : Nat) (pix : List Byte) (x0 count : Nat) (s : State) (yy : Nat) : State :=
  s.vramWriteRun (s.addr x0 yy) ((pix.drop ((x0 - x).toNat + w * (yy - y).toNat)).take count)

/-- `SpriteBlit(x, y, w, h, pix)`: the clipping copy, row by row, no transparency (R122 to R124). An empty intersection
writes nothing. -/
def spriteBlit (x y : Int) (w h : Nat) (pix : List Byte) (s : State) : State :=
  let cols := clipRange x w s.W
  let rows := clipRange y h s.H
  if cols.2 = 0 then s
  else (List.range' rows.1 rows.2).foldl (spriteRow x y w pix cols.1 cols.2) s

/-- BLIT_SPRITE (R125): every pixel is checked, clipped or not, before any write. -/
def execBlitSprite (x y : Word) (w h : BitVec 16) (pix : List Byte) (s : State) : Host.Outcome State Fault Refusal :=
  .next (if w = 0 ∨ h = 0 then s.raise .invalidArgument
    else if s.indicesOk pix then
      (spriteBlit (Operand.sint32 x) (Operand.sint32 y) w.toNat h.toNat pix s).respond []
    else s.raise .outOfRange)

end Machine
end Sys2Proof
end

