-- ==== Sys2Proof/Machine/Text.lean ====
section
/-! DEFINITION. Text drawing, the cursor and font selection (46_text.md R126 to R132). -/

namespace Sys2Proof
namespace Machine

/-- Draw a character of the active font with its top-left pixel at `(x, y)`, clipped as a sprite is (R101, R126, R127). -/
def drawChar (code fg bg : Byte) (x y : Int) (s : State) : State :=
  spriteBlit x y s.GW s.GH (glyph s.config s.font code fg bg) s

/-- PUTCHAR_AT (R126): `fg` and `bg` are both checked; the cursor stays. -/
def execPutcharAt (code fg bg : Byte) (x y : Word) (s : State) : Host.Outcome State Fault Refusal :=
  .next (if s.NC ≤ fg.toNat ∨ s.NC ≤ bg.toNat then s.raise .outOfRange
    else (drawChar code fg bg (Operand.sint32 x) (Operand.sint32 y) s).respond [])

/-- PUTCHAR (R127): at the cursor's cell, then the cursor advances. -/
def execPutchar (code fg bg : Byte) (s : State) : Host.Outcome State Fault Refusal :=
  .next (if s.NC ≤ fg.toNat ∨ s.NC ≤ bg.toNat then s.raise .outOfRange
    else
      (drawChar code fg bg ((s.curCol.toNat * s.GW : Nat) : Int) ((s.curRow.toNat * s.GH : Nat) : Int) s).advance.respond
        [])

/-- SET_CURSOR (R129): a value outside the grid wraps. -/
def execSetCursor (col row : BitVec 16) (s : State) : Host.Outcome State Fault Refusal :=
  .next ((s.setCursor (col.toNat % s.gridCols) (row.toNat % s.gridRows)).respond [])

/-- GET_CURSOR (R130): the stored cursor, not wrapped. -/
def execGetCursor (s : State) : Host.Outcome State Fault Refusal :=
  .next (s.respond [Operand.halves s.curRow s.curCol])

/-- SET_FONT (R131): the font must be known and fit the mode; cursor and VRAM stay. -/
def execSetFont (f : Id24) (s : State) : Host.Outcome State Fault Refusal :=
  .next (match s.config.font? f with
    | none => s.raise .invalidArgument
    | some F =>
      if s.W < F.GW ∨ s.H < F.GH then s.raise .invalidArgument
      else State.respond [] { s with font := f })

/-- GET_FONT (R132). -/
def execGetFont (s : State) : Host.Outcome State Fault Refusal :=
  .next (s.respond [s.font.setWidth 32])

end Machine
end Sys2Proof
end

