-- ==== Sys2Proof/Machine/Dispatch.lean ====
section
/-! DEFINITION. The meaning of every command, one arm per row of spec/opcode_table.json. -/

namespace Sys2Proof.Machine

def exec (i : Instr) (s : State) : Host.Outcome State Fault Refusal :=
  match i with
  | .setMode m => Sys2Proof.Machine.execSetMode m s
  | .setPalette colors => Sys2Proof.Machine.execSetPalette colors s
  | .setColor idx c => Sys2Proof.Machine.execSetColor idx c s
  | .getColor idx => Sys2Proof.Machine.execGetColor idx s
  | .resetPalette => Sys2Proof.Machine.execResetPalette s
  | .setPixel idx x y => Sys2Proof.Machine.execSetPixel idx x y s
  | .getPixel x y => Sys2Proof.Machine.execGetPixel x y s
  | .blitFull pix => Sys2Proof.Machine.execBlitFull pix s
  | .blitSprite x y w h pix => Sys2Proof.Machine.execBlitSprite x y w h pix s
  | .putcharAt code fg bg x y => Sys2Proof.Machine.execPutcharAt code fg bg x y s
  | .putchar code fg bg => Sys2Proof.Machine.execPutchar code fg bg s
  | .setCursor col row => Sys2Proof.Machine.execSetCursor col row s
  | .getCursor => Sys2Proof.Machine.execGetCursor s
  | .setFont f => Sys2Proof.Machine.execSetFont f s
  | .getFont => Sys2Proof.Machine.execGetFont s
  | .getGlyph f code fg bg => Sys2Proof.Machine.execGetGlyph f code fg bg s
  | .fontSize f => Sys2Proof.Machine.execFontSize f s
  | .showFrame => Sys2Proof.Machine.execShow s

end Sys2Proof.Machine
end

