-- ==== Sys2Proof/Machine/Step.lean ====
section
/-! DEFINITION. One step: the next packet the host has sent, whole and at once (20_memory.md R49, R53), or the hold of a
packet whose last word has not arrived (30_encoding.md R59). -/

namespace Sys2Proof
namespace Machine

/-- One step. A whole packet runs as one command; an illegal one completes with IllegalCommand and its full length is
taken (R70); otherwise the words so far are received and nothing else happens (R59; log entries 1 and 2). -/
def step (s : State) : Host.Outcome State Fault Refusal :=
  match decode s.pending with
  | .incomplete => .next s.hold
  | .illegal _ n => .next ((s.accept n).raise .illegalCommand)
  | .command i n => exec i (s.accept n)

/-- `s` with the packet of `w` next on the command port: no packet half received, and this one's words before any
word the host sent earlier (log entry 3). -/
def State.withFetchWord (s : State) (nbits w : Nat) : State :=
  { s with packetBuf := [], port := tableWords nbits w ++ s.port }

end Machine
end Sys2Proof
end

