-- ==== Sys2Proof/Machine/Asm.lean ====
section
/-! DEFINITION. The assembler (30_encoding.md R73, R74): one line of text to the words of its packet. Host-side; the core
sees the words alone. Log entry 19 names what the spec leaves open about the text. -/

namespace Sys2Proof
namespace Asm

/-- A line: its mnemonic and its operands in the order written. -/
structure Line where
  op   : String
  args : List Int
  deriving DecidableEq, Repr

/-- An operand for an unsigned field of `n` bits; refused when it does not fit (R67, R73). -/
def field (n : Nat) (v : Int) : Option (BitVec n) :=
  if 0 ≤ v ∧ v < 2 ^ n then some (BitVec.ofInt n v) else none

/-- An operand for a POS word, signed 32 bits; refused when it does not fit (R64, R73). -/
def pos (v : Int) : Option Word :=
  if -(2 ^ 31) ≤ v ∧ v < 2 ^ 31 then some (BitVec.ofInt 32 v) else none

/-- Every operand of a list for a field of `n` bits. -/
def fieldsOf (n : Nat) : List Int → Option (List (BitVec n))
  | [] => some []
  | v :: vs => do
    let b ← field n v
    let bs ← fieldsOf n vs
    return b :: bs

/-- A color operand, a whole COLOR word as written: R67 and R73 give it no width, and P2 of 95_test_vectors.md writes
`0xFF0000FF` and has it go out with its top byte, which the core ignores (R61). DEDUCED, log entry 19. -/
def color (v : Int) : Option Word := field 32 v

/-- The command of a line, `area` being `W*H`, which `clear` needs (R73, R74). -/
def command (area : Nat) (l : Line) : Option Instr :=
  match l.op, l.args with
  | "set_mode", [m] => do return .setMode (← field 24 m)
  | "set_palette", cs => do return .setPalette ((← fieldsOf 32 cs).map Color.fromPacked)
  | "set_color", [i, c] => do return .setColor (← field 8 i) (Color.fromPacked (← color c))
  | "get_color", [i] => do return .getColor (← field 8 i)
  | "reset_palette", [] => some .resetPalette
  | "set_pixel", [x, y, i] => do return .setPixel (← field 8 i) (← field 16 x) (← field 16 y)
  | "get_pixel", [x, y] => do return .getPixel (← field 16 x) (← field 16 y)
  | "blit_full", bs => do return .blitFull (← fieldsOf 8 bs)
  | "blit_sprite", x :: y :: w :: h :: ps =>
    do return .blitSprite (← pos x) (← pos y) (← field 16 w) (← field 16 h) (← fieldsOf 8 ps)
  | "putchar_at", [c, fg, bg, x, y] =>
    do return .putcharAt (← field 8 c) (← field 8 fg) (← field 8 bg) (← pos x) (← pos y)
  | "putchar_at", [c, fg, x, y] => do return .putcharAt (← field 8 c) (← field 8 fg) 0 (← pos x) (← pos y)
  | "putchar", [c, fg, bg] => do return .putchar (← field 8 c) (← field 8 fg) (← field 8 bg)
  | "putchar", [c, fg] => do return .putchar (← field 8 c) (← field 8 fg) 0
  | "set_cursor", [col, row] => do return .setCursor (← field 16 col) (← field 16 row)
  | "get_cursor", [] => some .getCursor
  | "set_font", [f] => do return .setFont (← field 24 f)
  | "get_font", [] => some .getFont
  | "get_glyph", [f, c, fg, bg] => do return .getGlyph (← field 24 f) (← field 8 c) (← field 8 fg) (← field 8 bg)
  | "font_size", [f] => do return .fontSize (← field 24 f)
  | "show", [] => some .showFrame
  | "set_rgb", [i, r, g, b] => do return .setColor (← field 8 i) ⟨← field 8 r, ← field 8 g, ← field 8 b⟩
  | "clear", [i] => do return .blitFull (List.replicate area (← field 8 i))
  | _, _ => none

/-- The words of a line: those of its command, which must fit its packet (R67); a COLOR word (log entry 19) and the raw
data words (R74) go out as they are written. -/
def words (area : Nat) (l : Line) : Option (List Word) :=
  match l.op, l.args with
  | "set_palette", cs => do
    let raw ← fieldsOf 32 cs
    if raw.length < 2 ^ 24 then return Operand.header24 0x02 (BitVec.ofNat 24 raw.length) :: raw else none
  | "set_color", [i, c] => do return [Operand.header8 0x03 (← field 8 i), ← color c]
  | "set_palette_raw", n :: data => do
    let count ← field 24 n
    let raw ← fieldsOf 32 data
    if raw.length = count.toNat then return Operand.header24 0x02 count :: raw else none
  | _, _ => do
    let i ← command area l
    if i.wellFormed then return encode i else none

/-! ## The text of a line -/

/-- The value of a digit in base 10 or 16. -/
def digit (base : Nat) (c : Char) : Option Nat :=
  let v :=
    if '0' ≤ c ∧ c ≤ '9' then c.toNat - '0'.toNat
    else if 'a' ≤ c ∧ c ≤ 'f' then c.toNat - 'a'.toNat + 10
    else if 'A' ≤ c ∧ c ≤ 'F' then c.toNat - 'A'.toNat + 10
    else base
  if v < base then some v else none

/-- Digits read on from the value `acc`. -/
def digits (base acc : Nat) : List Char → Option Nat
  | [] => some acc
  | c :: cs =>
    match digit base c with
    | none => none
    | some v => digits base (acc * base + v) cs

/-- A decimal number, or a hexadecimal one after `0x` (R73). -/
def natural : List Char → Option Nat
  | [] => none
  | '0' :: 'x' :: c :: cs => digits 16 0 (c :: cs)
  | c :: cs => digits 10 0 (c :: cs)

/-- A number with an optional sign. -/
def number : List Char → Option Int
  | '-' :: cs => (natural cs).map (fun n => -(n : Int))
  | cs => (natural cs).map (fun n => (n : Int))

/-- Spaces and tabs at both ends are dropped. -/
def trim (cs : List Char) : List Char :=
  let blank := fun c : Char => c == ' ' || c == '\t'
  ((cs.dropWhile blank).reverse.dropWhile blank).reverse

/-- The pieces between commas. -/
def splitCommas : List Char → List (List Char)
  | [] => [[]]
  | c :: cs =>
    if c = ',' then [] :: splitCommas cs
    else
      match splitCommas cs with
      | [] => [[c]]
      | p :: ps => (c :: p) :: ps

/-- The operands between commas; no text is no operand. -/
def operands (cs : List Char) : Option (List Int) :=
  if cs.isEmpty then some [] else (splitCommas cs).mapM (fun p => number (trim p))

/-- A line of text: its mnemonic, then its operands separated by commas; a `;` begins a comment (R73). A blank line or a
comment alone is no line. -/
def parse (text : String) : Option (Option Line) :=
  let cs := trim (text.toList.takeWhile (fun c => c != ';'))
  if cs.isEmpty then some none
  else
    match operands (trim (cs.dropWhile (fun c => c != ' '))) with
    | none => none
    | some args => some (some ⟨String.ofList (cs.takeWhile (fun c => c != ' ')), args⟩)

/-- A program text, line by line, as the word stream of its packets. -/
def assemble (area : Nat) : List String → Option (List Word)
  | [] => some []
  | text :: rest => do
    let first ←
      match ← parse text with
      | none => some []
      | some l => words area l
    let more ← assemble area rest
    return first ++ more

end Asm
end Sys2Proof
end

