-- ==== Sys2Proof/Machine/Sprite.lean ====
section
/-! DEFINITION. The sprite descriptor, host-side data that BLIT_SPRITE carries (42_sprite.md R98 to R105). No operation here
is a command, and none reads or writes the core's state (R5, R99). -/

namespace Sys2Proof
namespace Machine

/-- A descriptor `{w, h, x, y, pix}` (R98); `x` and `y` are two's complement. -/
structure Sprite where
  w   : BitVec 16
  h   : BitVec 16
  x   : Word
  y   : Word
  pix : List Byte
  deriving DecidableEq, Repr

/-- A built descriptor: `w, h >= 1` and exactly `w*h` pixels (R98). -/
abbrev spriteOk (p : Sprite) : Prop :=
  1 ≤ p.w.toNat ∧ 1 ≤ p.h.toNat ∧ p.pix.length = p.w.toNat * p.h.toNat

/-- `Sprite(w, h)` and `Sprite(w, h, src)`: zero pixels without a source, at position (0, 0) (R100). -/
def spriteNew (w h : BitVec 16) (src : Option (List Byte)) : Except Status Sprite :=
  if w = 0 ∨ h = 0 then .error .invalidArgument
  else
    match src with
    | none => .ok ⟨w, h, 0, 0, List.replicate (w.toNat * h.toNat) 0⟩
    | some pix =>
      if pix.length = w.toNat * h.toNat then .ok ⟨w, h, 0, 0, pix⟩ else .error .invalidArgument

/-- A sprite from a glyph (R101). Of a font higher than 65535, of which R98 allows no descriptor while R101 names no error,
the height is cut to 16 bits, no source has that size, and the answer is InvalidArgument. DESIGN CHOICE, log entry 18. -/
def spriteOfGlyph (c : Configuration) (f : Id24) (code fg bg : Byte) : Except Status Sprite :=
  spriteNew (BitVec.ofNat 16 (c.fontRecord f).GW) (BitVec.ofNat 16 (c.fontRecord f).GH) (some (glyph c f code fg bg))

/-- `move(dx, dy)`: the position wraps modulo 2^32 (R102). -/
def spriteMove (dx dy : Word) (p : Sprite) : Sprite := { p with x := p.x + dx, y := p.y + dy }

/-- `position(x, y)`: set absolutely (R103). -/
def spriteSetPosition (x y : Word) (p : Sprite) : Sprite := { p with x := x, y := y }

/-- `position()` (R103). -/
def spritePosition (p : Sprite) : Int × Int := (Operand.sint32 p.x, Operand.sint32 p.y)

/-- `size()` (R103). -/
def spriteSize (p : Sprite) : Nat × Nat := (p.w.toNat, p.h.toNat)

/-- Sprite pixel `(i, j)` (R98). -/
def spritePixel (p : Sprite) (i j : Nat) : Option Byte := p.pix[i + p.w.toNat * j]?

/-- `fill(v)`: every pixel overwritten, `v` not checked (R104). -/
def spriteFill (v : Byte) (p : Sprite) : Sprite := { p with pix := List.replicate p.pix.length v }

/-- The command that carries a descriptor to the core (R105). -/
def spriteCommand (p : Sprite) : Instr := .blitSprite p.x p.y p.w p.h p.pix

end Machine
end Sys2Proof
end

