-- ==== Sys2Proof/Safety.lean ====
section
/-! DEFINITION. What a legal state and a run are, in the terms the claims use: the invariant of the core, the states a
run reaches, the illegal encodings and the error causes as the spec lists them, apart from the code that checks them. -/

namespace Sys2Proof
namespace Machine

/-- A frame as the presentation port carries it: `W*H` words with bits [31:24] zero, pitch `4*W` (R133, R148). -/
abbrev frameOk (f : Frame) : Prop :=
  f.pixels.length = f.width * f.height ∧ f.pitch = 4 * f.width ∧ ∀ p ∈ f.pixels, p.toNat < 2 ^ 24

/-- The invariant of the core. No run leaves it, and a state outside it is none the spec describes. -/
structure State.Inv (s : State) : Prop where
  /-- the core was built from a well-formed configuration (R12, R95, R157) -/
  configOk : s.config.ok
  /-- `MODE` holds a key of `MODE_TABLE` (R24) -/
  modeKey : (s.config.mode? s.mode).isSome = true
  /-- `FONT` holds a key of `FONT_TABLE` whose font fits the mode (R25) -/
  fontFits : (s.config.font? s.font).any (fun F => decide (Configuration.fits F s.modeRec)) = true
  /-- the palette has exactly `NC` entries (R28) -/
  palSize : s.pal.length = s.NC
  /-- VRAM is in its canonical form (log entry 6) -/
  vramWf : Memory.wf s.vram
  /-- every written cell lies in the framebuffer and holds an index of the palette (R30, R31) -/
  vramCells : ∀ c ∈ s.vram, c.1 < s.W * s.H ∧ c.2.toNat < s.NC
  /-- the packet buffer holds no whole packet (R35, R59) -/
  bufPartial : decode s.packetBuf = .incomplete
  /-- a completion with an error has no response word (R69, R137) -/
  errorsEmpty : ∀ c ∈ s.completions, c.status ≠ .ok → c.data = []
  /-- every presented frame has its shape (R133) -/
  framesOk : ∀ f ∈ s.frameLog, frameOk f

/-- The states of a run of a core: it is built from a well-formed configuration, whichever, and starts at its reset; then
the host's words and the core's steps in any order, and resets from outside (R20, R36, R53, R147, R157, R158). -/
inductive Reachable : State → Prop where
  | build (c : Configuration) (s : State) : State.build? c = some s → Reachable s
  | send (s : State) (ws : List Word) : Reachable s → Reachable (s.hostSend ws)
  | step (s t : State) : Reachable s → step s = .next t → Reachable t
  | hostReset (s : State) : Reachable s → Reachable s.hostReset

/-- `s` with a packet taken, `rest` being the words after it. -/
abbrev State.taken (s : State) (rest : List Word) : State := { s with packetBuf := [], port := rest }

/-- `s` with one more completion and nothing else changed. -/
abbrev State.done (s : State) (e : Status) (data : List Word) : State :=
  { s with completions := s.completions ++ [⟨e, data⟩] }

/-- `s` after an illegal packet, `rest` being the words after it (R70). -/
abbrev State.illegalAfter (s : State) (rest : List Word) : State := (s.taken rest).done .illegalCommand []

/-- One round of R116 as the host runs it: the palette read, rotated left by one and loaded back with SET_PALETTE. -/
def hostRotate (s : State) : State :=
  match exec (.setPalette (rotateLeft s.pal)) s with
  | .next t => t
  | .fault _ | .refused _ => s

/-- The opcodes R70 lists as unknown. -/
abbrev unknownOpcode (o : Nat) : Prop :=
  o = 0x00 ∨ (0x06 ≤ o ∧ o ≤ 0x0F) ∨ (0x14 ≤ o ∧ o ≤ 0x1F) ∨ (0x28 ≤ o ∧ o ≤ 0x2F) ∨ (0x31 ≤ o ∧ o ≤ 0xFF)

/-- A reserved bit of the packet `ws` is not zero, as 93_implementation_defined.md lists the reserved bits: `w0[23:0]` of the
formats N, W and S, `w0[23:8]` of I8 and I8W, `w1[31:24]` of GF (R60, R65, R70). -/
abbrev reservedBitSet (ws : List Word) : Prop :=
  let w0 := wordAt ws 0
  let o := w0.toNat / 2 ^ 24
  ((o = 0x05 ∨ o = 0x11 ∨ o = 0x13 ∨ o = 0x22 ∨ o = 0x23 ∨ o = 0x25 ∨ o = 0x30) ∧ w0.toNat % 2 ^ 24 ≠ 0) ∨
  ((o = 0x03 ∨ o = 0x04 ∨ o = 0x10) ∧ w0.toNat / 2 ^ 8 % 2 ^ 16 ≠ 0) ∨
  (o = 0x26 ∧ (wordAt ws 1).toNat / 2 ^ 24 ≠ 0)

/-- The errors that apply to a command in a state, each cause of R138's table apart and in no order. IllegalCommand is
none of them: it belongs to a packet no command has. -/
def errorCauses (i : Instr) (s : State) : List Status :=
  let cause (e : Status) (b : Bool) : List Status := if b then [e] else []
  match i with
  | .setMode m =>
    cause .resourceCreationFailed ((s.config.mode? m).isSome && !Config.surfaceAcquire s.acquisitions) ++
      cause .unknownMode (s.config.mode? m).isNone
  | .setPalette colors => cause .invalidArgument (decide (s.NC < colors.length))
  | .setColor idx _ => cause .outOfRange (decide (s.NC ≤ idx.toNat))
  | .getColor idx => cause .outOfRange (decide (s.NC ≤ idx.toNat))
  | .resetPalette => []
  | .setPixel idx x y =>
    cause .outOfRange (decide (s.NC ≤ idx.toNat)) ++
      cause .outOfRange (decide (s.W ≤ x.toNat ∨ s.H ≤ y.toNat))
  | .getPixel x y => cause .outOfRange (decide (s.W ≤ x.toNat ∨ s.H ≤ y.toNat))
  | .blitFull pix =>
    cause .outOfRange (pix.any (fun p => decide (s.NC ≤ p.toNat))) ++
      cause .invalidArgument (decide (pix.length ≠ s.W * s.H))
  | .blitSprite _ _ w h pix =>
    cause .outOfRange (pix.any (fun p => decide (s.NC ≤ p.toNat))) ++
      cause .invalidArgument (decide (w.toNat = 0 ∨ h.toNat = 0))
  | .putcharAt _ fg bg _ _ => cause .outOfRange (decide (s.NC ≤ fg.toNat ∨ s.NC ≤ bg.toNat))
  | .putchar _ fg bg => cause .outOfRange (decide (s.NC ≤ fg.toNat ∨ s.NC ≤ bg.toNat))
  | .setCursor _ _ => []
  | .getCursor => []
  | .setFont f =>
    cause .invalidArgument (s.config.font? f).isNone ++
      cause .invalidArgument ((s.config.font? f).any (fun F => decide (s.W < F.GW ∨ s.H < F.GH)))
  | .getFont => []
  | .getGlyph f _ _ _ => cause .invalidArgument (s.config.font? f).isNone
  | .fontSize f => cause .invalidArgument (s.config.font? f).isNone
  | .showFrame => cause .resourceCreationFailed (!s.surf)

/-- The commands that change no state (R50). -/
abbrev readsOnly (i : Instr) : Prop :=
  match i with
  | .getPixel _ _ | .getColor _ | .getCursor | .getFont | .fontSize _ | .getGlyph _ _ _ _ => True
  | .setMode _ | .setPalette _ | .setColor _ _ | .resetPalette | .setPixel _ _ _ | .blitFull _
  | .blitSprite _ _ _ _ _ | .putcharAt _ _ _ _ _ | .putchar _ _ _ | .setCursor _ _ | .setFont _ | .showFrame => False

/-- The palette commands (44_palette.md). -/
abbrev paletteCommand (i : Instr) : Prop :=
  match i with
  | .setPalette _ | .setColor _ _ | .getColor _ | .resetPalette => True
  | .getPixel _ _ | .getCursor | .getFont | .fontSize _ | .getGlyph _ _ _ _ | .setMode _ | .setPixel _ _ _
  | .blitFull _ | .blitSprite _ _ _ _ _ | .putcharAt _ _ _ _ _ | .putchar _ _ _ | .setCursor _ _ | .setFont _
  | .showFrame => False

/-- The commands that read or write VRAM cells by coordinates (R38), SHOW apart. -/
abbrev vramCommand (i : Instr) : Prop :=
  match i with
  | .setPixel _ _ _ | .getPixel _ _ | .blitFull _ | .blitSprite _ _ _ _ _ | .putcharAt _ _ _ _ _ | .putchar _ _ _ =>
    True
  | .setPalette _ | .setColor _ _ | .getColor _ | .resetPalette | .getCursor | .getFont | .fontSize _
  | .getGlyph _ _ _ _ | .setMode _ | .setCursor _ _ | .setFont _ | .showFrame => False

end Machine
end Sys2Proof
end

