-- ==== Sys2Proof/Certificates/Slice0/Obligations.lean ====
section
/-! DEFINITION. The statements about the core, one definition each. The Packet part of a command's statement says which words
run it and when they raise IllegalCommand; the Effect part says what it does, with everything it leaves unchanged. -/

open Sys2Proof Sys2Proof.Machine

/-! ## Encoding -/

/-- 30_encoding.md: no bit of an operand is lost on the way through a packet, whatever words follow it. -/
def Obligations.DecodeOfEncodeIsTheCommand : Prop :=
  ∀ (i : Instr) (rest : List Word), i.WellFormed →
    decode (encode i ++ rest) = .command i (encode i).length

/-- What the decoder reads is a command with a packet, and it takes exactly that packet's length (R58, R72). -/
def Obligations.DecodedCommandIsWellFormed : Prop :=
  ∀ (ws : List Word) (i : Instr) (n : Nat), decode ws = .command i n →
    i.WellFormed ∧ n = (encode i).length ∧ n ≤ ws.length

/-- The decoder drops only what R61 and R45 have it ignore: the top byte of a COLOR word and payload padding. -/
def Obligations.DecoderDropsOnlyIgnoredBits : Prop :=
  ∀ (ws : List Word) (i : Instr) (n : Nat), decode ws = .command i n →
    match i with
    | .setPalette _ | .setColor _ _ =>
      encode i = ws.take 1 ++ ((ws.take n).drop 1).map (fun w => w &&& 0x00FFFFFF)
    | .blitFull pix => (encode i).take 1 = ws.take 1 ∧ pix = (((ws.take n).drop 1).flatMap Operand.bytesOf).take pix.length
    | .blitSprite _ _ _ _ pix =>
      (encode i).take 4 = ws.take 4 ∧ pix = (((ws.take n).drop 4).flatMap Operand.bytesOf).take pix.length
    | _ => encode i = ws.take n

/-- Words written out in the spec's own examples decode to the commands they stand for. -/
def Obligations.WordsOfTheSpecDecode : Prop :=
  decode [0x01000001] = .command (.setMode 1) 1 ∧
  decode [0x02000002, 0x00FF0000, 0x0000FF00] = .command (.setPalette [⟨255, 0, 0⟩, ⟨0, 255, 0⟩]) 3 ∧
  decode [0x0300000F, 0x00123456] = .command (.setColor 15 ⟨0x12, 0x34, 0x56⟩) 2 ∧
  decode [0x10000005, 0x00C7013F] = .command (.setPixel 5 319 199) 2 ∧
  decode [0x12000004, 0x04030201] = .command (.blitFull [1, 2, 3, 4]) 2 ∧
  decode [0x13000000, 0xFFFFFFFF, 0x000000C7, 0x00020002, 0x04030201] =
    .command (.blitSprite (-1) 199 2 2 [1, 2, 3, 4]) 5 ∧
  decode [0x22000000, 0x001E0055] = .command (.setCursor 85 30) 2 ∧
  decode [0x26000141, 0x00000010] = .command (.getGlyph 0x10 0x41 1 0) 2 ∧
  decode [0x30000000] = .command .showFrame 1

/-- R58: the length of a packet, format by format. -/
def Obligations.PacketLengthIsRule58 : Prop :=
  ∀ (w0 : Word) (rest : List Word),
    let o := w0.toNat / 2 ^ 24
    let count := w0.toNat % 2 ^ 24
    ((o = 0x01 ∨ o = 0x04 ∨ o = 0x05 ∨ o = 0x21 ∨ o = 0x23 ∨ o = 0x24 ∨ o = 0x25 ∨ o = 0x27 ∨ o = 0x30) →
      packetLen (w0 :: rest) = some 1) ∧
    ((o = 0x03 ∨ o = 0x10 ∨ o = 0x11 ∨ o = 0x22 ∨ o = 0x26) → packetLen (w0 :: rest) = some 2) ∧
    (o = 0x20 → packetLen (w0 :: rest) = some 3) ∧
    (o = 0x02 → packetLen (w0 :: rest) = some (1 + count)) ∧
    (o = 0x12 → packetLen (w0 :: rest) = some (1 + (count + 3) / 4)) ∧
    (o = 0x13 →
      (rest.length < 3 → packetLen (w0 :: rest) = none) ∧
      (∀ w1 w2 w3 more, rest = w1 :: w2 :: w3 :: more →
        packetLen (w0 :: rest) = some (4 + ((w3.toNat % 2 ^ 16) * (w3.toNat / 2 ^ 16) + 3) / 4))) ∧
    (unknownOpcode o → packetLen (w0 :: rest) = some 1)

/-- R70: exactly the listed encodings are illegal; an illegal packet completes with IllegalCommand, takes its full length
and changes nothing else; every other whole packet is a command, and neither the top byte of a COLOR word nor a padding
byte changes what the packet carries. -/
def Obligations.IllegalEncodingsRaiseIllegalCommand : Prop :=
  (∀ (s : State) (n : Nat), packetLen (s.packetBuf ++ s.port) = some n → n ≤ (s.packetBuf ++ s.port).length →
    let ws := s.packetBuf ++ s.port
    let o := (wordAt ws 0).toNat / 2 ^ 24
    ((unknownOpcode o ∨ reservedBitSet ws) → step s = .next (s.illegalAfter (ws.drop n))) ∧
    (unknownOpcode o → n = 1) ∧
    (¬ (unknownOpcode o ∨ reservedBitSet ws) → ∃ i, decode ws = .command i n)) ∧
  (∀ p q : Word, p.toNat % 2 ^ 24 = q.toNat % 2 ^ 24 → Color.fromPacked p = Color.fromPacked q) ∧
  (∀ (n : Nat) (ws ws' : List Word), n ≤ 4 * ws.length → n ≤ 4 * ws'.length →
    (∀ k, k < n → ws[k / 4]?.map (fun w => w.toNat / 2 ^ (8 * (k % 4)) % 256) =
      ws'[k / 4]?.map (fun w => w.toNat / 2 ^ (8 * (k % 4)) % 256)) →
    Operand.unpack n ws = Operand.unpack n ws')

/-- R45: byte `k` of a payload is byte `k mod 4` of its word `k div 4`, low bits first, padded with zeros on output. -/
def Obligations.PayloadBytesAreLittleEndian : Prop :=
  (∀ (ws : List Word) (n k : Nat), k < n → n ≤ 4 * ws.length →
    (Operand.unpack n ws)[k]? = ws[k / 4]?.map (fun w => BitVec.ofNat 8 (w.toNat / 2 ^ (8 * (k % 4))))) ∧
  (∀ (ws : List Word) (n : Nat), n ≤ 4 * ws.length → (Operand.unpack n ws).length = n) ∧
  (∀ bs : List Byte, (Operand.pack bs).length = (bs.length + 3) / 4) ∧
  (∀ (bs : List Byte) (k : Nat), k < 4 * ((bs.length + 3) / 4) →
    (Operand.pack bs)[k / 4]?.map (fun w => BitVec.ofNat 8 (w.toNat / 2 ^ (8 * (k % 4)))) = some (bs.getD k 0))

/-! ## The step -/

/-- A step runs the decoded command: exec of it, its words taken off the command port. -/
def Obligations.StepRunsTheDecodedCommand : Prop :=
  ∀ (s : State) (i : Instr) (n : Nat), decode (s.packetBuf ++ s.port) = .command i n →
    step s = exec i (s.taken ((s.packetBuf ++ s.port).drop n))

/-- A step runs the packet the host encoded, and leaves exactly the words after it. -/
def Obligations.StepRunsTheEncodedCommand : Prop :=
  ∀ (s : State) (i : Instr) (rest : List Word), i.WellFormed → s.packetBuf ++ s.port = encode i ++ rest →
    step s = exec i (s.taken rest)

/-- R59: a packet whose last word has not arrived is held: its words are in the packet buffer and nothing else changes, and
with no word offered nothing changes at all. That a hold is a step is the model's form of it (log entry 1). -/
def Obligations.IncompletePacketIsHeld : Prop :=
  ∀ s : State,
    (packetLen (s.packetBuf ++ s.port) = none ∨
      ∃ n, packetLen (s.packetBuf ++ s.port) = some n ∧ (s.packetBuf ++ s.port).length < n) →
    step s = .next { s with packetBuf := s.packetBuf ++ s.port, port := [] } ∧ (s.port = [] → step s = .next s)

/-- R137: one completion per packet, unknown opcodes included, without data unless the status is OK, and the codes. -/
def Obligations.EveryPacketGetsOneCompletion : Prop :=
  (∀ (s : State) (n : Nat), packetLen (s.packetBuf ++ s.port) = some n → n ≤ (s.packetBuf ++ s.port).length →
    ∃ t c, step s = .next t ∧ t.completions = s.completions ++ [c] ∧ (c.status ≠ .ok → c.data = []) ∧
      t.packetBuf = [] ∧ t.port = (s.packetBuf ++ s.port).drop n) ∧
  (Status.code .ok = 0 ∧ Status.code .invalidArgument = 1 ∧ Status.code .outOfRange = 2 ∧
    Status.code .unknownMode = 3 ∧ Status.code .resourceCreationFailed = 4 ∧ Status.code .illegalCommand = 5)

/-- R53, R165: a stream of whole packets runs in one step each, in order, to one completion each. -/
def Obligations.StreamOfCommandsCompletes : Prop :=
  ∀ (is : List Instr) (s : State) (rest : List Word), (∀ i ∈ is, i.WellFormed) → s.packetBuf = [] →
    s.port = is.flatMap encode ++ rest →
    ∃ t cs, Host.Core.run Sys2Proof.core is.length s = .next t ∧ t.packetBuf = [] ∧ t.port = rest ∧
      cs.length = is.length ∧ t.completions = s.completions ++ cs

/-- No state and no word stops the core: there is no trap, no dead state and no refusal (R140, R142, R165). Two parts are the
model's choice and no rule's: that the hold of an incomplete packet, for which R59 gives the core no step, counts as a step
(DEDUCED, log entry 1), and that exec answers for commands no packet carries (DESIGN CHOICE, log entry 20). -/
def Obligations.NoStepStopsTheCore : Prop :=
  (∀ s : State, ∃ t, step s = .next t) ∧ (∀ (i : Instr) (s : State), ∃ t, exec i s = .next t)

/-! ## The whole machine -/

/-- R140: an error leaves the state as it was, with the one exception of a failed acquisition in SET_MODE, which clears SURF.
That such a SET_MODE leaves its release and its acquire in the port's log is the model's reading of R140 with R148 (DEDUCED,
log entries 12 and 22), and that it counts the draw is the model's form of SurfaceAcquire (DESIGN CHOICE, log entry 4). -/
def Obligations.ErrorsLeaveTheStateAsItWas : Prop :=
  (∀ (s : State) (why : Illegal) (n : Nat), decode (s.packetBuf ++ s.port) = .illegal why n →
    step s = .next (s.illegalAfter ((s.packetBuf ++ s.port).drop n))) ∧
  (∀ (i : Instr) (s t : State) (c : Completion), exec i s = .next t → t.completions = s.completions ++ [c] →
    c.status ≠ .ok →
    t = s.done c.status [] ∨
      ∃ m M, i = .setMode m ∧ s.config.mode? m = some M ∧ c.status = .resourceCreationFailed ∧
        t = { s.done .resourceCreationFailed [] with
          surf := false
          portLog := s.portLog ++ (if s.surf then [.release] else []) ++ [.acquire M.W M.H]
          acquisitions := s.acquisitions + 1 })

/-- R138, R139: an illegal packet reports IllegalCommand, whatever else applies; a command reports OK when no cause of the
table applies, else the first in the check order of those that do, and nothing beside it. -/
def Obligations.StatusIsTheFirstErrorThatApplies : Prop :=
  (∀ (s : State) (why : Illegal) (n : Nat), decode (s.packetBuf ++ s.port) = .illegal why n →
    ∃ t, step s = .next t ∧ t.completions = s.completions ++ [⟨.illegalCommand, []⟩]) ∧
  (∀ (i : Instr) (s : State), s.pal.length = s.NC →
    ∃ t c, exec i s = .next t ∧ t.completions = s.completions ++ [c] ∧ (c.status ≠ .ok → c.data = []) ∧
      (errorCauses i s = [] → c.status = .ok) ∧
      (errorCauses i s ≠ [] →
        c.status ∈ errorCauses i s ∧ ∀ e ∈ errorCauses i s, c.status.checkOrder ≤ e.checkOrder)) ∧
  (Status.checkOrder .illegalCommand < Status.checkOrder .invalidArgument ∧
    Status.checkOrder .invalidArgument < Status.checkOrder .unknownMode ∧
    Status.checkOrder .unknownMode < Status.checkOrder .outOfRange ∧
    Status.checkOrder .outOfRange < Status.checkOrder .resourceCreationFailed)

/-- R50: the read commands change no state and answer the same when repeated. -/
def Obligations.ReadCommandsChangeNothing : Prop :=
  ∀ (i : Instr) (s : State), readsOnly i →
    ∃ c : Completion, exec i s = .next (s.done c.status c.data) ∧
      exec i (s.done c.status c.data) = .next ((s.done c.status c.data).done c.status c.data)

/-- R117: no palette command reads or writes VRAM, and no VRAM command reads or writes the palette. -/
def Obligations.PaletteAndVramAreIndependent : Prop :=
  (∀ (i : Instr) (s t : State), paletteCommand i → exec i s = .next t →
    t.vram = s.vram ∧ ∀ v, exec i { s with vram := v } = .next { t with vram := v }) ∧
  (∀ (i : Instr) (s t : State), vramCommand i → exec i s = .next t →
    t.pal = s.pal ∧ ∀ p, exec i { s with pal := p } = .next { t with pal := p })

/-- R53, R147: what a command does does not depend on the words that come after it. -/
def Obligations.LaterWordsDoNotAffectACommand : Prop :=
  ∀ (i : Instr) (s t : State) (buf port : List Word), exec i s = .next t →
    exec i { s with packetBuf := buf, port := port } = .next { t with packetBuf := buf, port := port }

/-- R23, R34: no command reads an earlier completion or the frames presented; each is only ever appended to. -/
def Obligations.LogsAreNeverReadAndOnlyGrow : Prop :=
  ∀ (i : Instr) (s t : State), exec i s = .next t →
    ∃ c es, t.completions = s.completions ++ [c] ∧ t.portLog = s.portLog ++ es ∧
      ∀ cs log, exec i { s with completions := cs, portLog := log } =
        .next { t with completions := cs ++ [c], portLog := log ++ es }

/-- The access columns of R24 to R26, R28, R30 and R33: which commands write which state. The presentation port's events are
those of R34 and R148, and no command writes the packet buffer (R35), the command port (R147) or the configuration (R36).
The model's own and no rule's: the two draw counters (DESIGN CHOICE, log entries 4 and 5), and that the configuration is a
field of State (DESIGN CHOICE, log entry 24). -/
def Obligations.OnlyTheNamedCommandsWriteEachRegister : Prop :=
  ∀ (i : Instr) (s t : State), exec i s = .next t →
    (t.mode ≠ s.mode ∨ t.surf ≠ s.surf ∨ t.vramEpoch ≠ s.vramEpoch ∨ t.acquisitions ≠ s.acquisitions →
      ∃ m, i = .setMode m) ∧
    (t.font ≠ s.font → (∃ m, i = .setMode m) ∨ ∃ f, i = .setFont f) ∧
    (t.curCol ≠ s.curCol ∨ t.curRow ≠ s.curRow →
      (∃ m, i = .setMode m) ∨ (∃ c r, i = .setCursor c r) ∨ ∃ code fg bg, i = .putchar code fg bg) ∧
    (t.pal ≠ s.pal →
      (∃ m, i = .setMode m) ∨ (∃ cs, i = .setPalette cs) ∨ (∃ k c, i = .setColor k c) ∨ i = .resetPalette) ∧
    (t.vram ≠ s.vram → (∃ m, i = .setMode m) ∨ vramCommand i) ∧
    (t.portLog ≠ s.portLog → (∃ m, i = .setMode m) ∨ i = .showFrame) ∧
    t.packetBuf = s.packetBuf ∧ t.port = s.port ∧ t.config = s.config

/-- Every step keeps the invariant. -/
def Obligations.StepKeepsTheInvariant : Prop :=
  ∀ s t : State, s.Inv → step s = .next t → t.Inv

/-- The state after reset of a core built from any well-formed configuration meets the invariant, and so does the one a reset
from outside leaves (R158). That the latter is the state after reset with draws not made before, the ports' words and logs
gone, is the model's choice (log entry 14). -/
def Obligations.ResetMeetsTheInvariant : Prop :=
  State.Inv State.reset ∧
  (∀ (c : Configuration) (s : State), State.build? c = some s → s.Inv) ∧
  (∀ s : State, s.config.ok → State.Inv s.hostReset) ∧
  (∀ s : State, s.hostReset =
    { State.resetWith s.config 0 0 with
      surf := Config.surfaceAcquire s.acquisitions
      acquisitions := s.acquisitions + 1
      vramEpoch := s.vramEpoch + 1 })

/-- In every state of a run, whichever well-formed configuration the core is built from, whatever the host sends and whenever
it resets the core, the invariant holds. -/
def Obligations.EveryReachableStateMeetsTheInvariant : Prop :=
  ∀ s : State, Reachable s → s.Inv

/-- R31: in every state of a run every VRAM cell, written or not, holds an index of the palette, so its lookup has a color.
That an address of W*H or more, which is no cell, reads as an index too is the model's choice (log entry 6). -/
def Obligations.EveryVramCellIndexesThePalette : Prop :=
  ∀ (s : State) (a : Nat), Reachable s → (s.vramRead a).toNat < s.NC ∧ ∃ c, s.pal[(s.vramRead a).toNat]? = some c

/-- R136: a step presents at most one frame, SHOW's, of the VRAM and palette as they stood; no earlier frame changes. -/
def Obligations.PresentedFramesAreSnapshots : Prop :=
  ∀ s t : State, step s = .next t →
    t.frameLog = s.frameLog ∨ ((∃ n, decode (s.packetBuf ++ s.port) = .command .showFrame n) ∧
      t.frameLog = s.frameLog ++ [resolve s] ∧ t.pal = s.pal ∧ ∀ a, t.vramRead a = s.vramRead a)

/-- R134: output word `a` depends on cell `a` and the entry it names alone; the frame has exactly `W*H` words. -/
def Obligations.ResolveIsALookupPerCell : Prop :=
  (∀ (s s' : State) (a : Nat), a < s.W * s.H → a < s'.W * s'.H → s.vramRead a = s'.vramRead a →
    s.pal[(s.vramRead a).toNat]? = s'.pal[(s.vramRead a).toNat]? →
    (resolve s).pixels[a]? = (resolve s').pixels[a]?) ∧
  (∀ s : State, (resolve s).pixels.length = s.W * s.H)

/-! ## Reset, configuration, geometry -/

/-- R37, R156: the state after reset of a core built from any well-formed configuration. Which mode RESET_MODE is, and what
the draws of reset are, it does not say. The model's choice and no rule's: that the core of `State.reset` has the spec's
default configuration (log entry 7), and that no VRAM cell is listed and an address of W*H or more, which is no cell, reads
below NC too (log entry 6). -/
def Obligations.ResetStateIsRule37 : Prop :=
  (∀ (c : Configuration) (s : State), State.build? c = some s →
    ∃ M, c.mode? c.RESET_MODE = some M ∧ s.config = c ∧
      s.mode = c.RESET_MODE ∧ s.font = M.FONT0 ∧ s.curCol = 0 ∧ s.curRow = 0 ∧
      s.surf = Config.surfaceAcquire 0 ∧
      s.pal.length = M.NC ∧
      (∀ i, i < 16 → s.pal[i]? = c.DEFAULT16[i]?) ∧
      (∀ i, 16 ≤ i → i < M.NC → s.pal[i]? = some ⟨0, 0, 0⟩) ∧
      s.vram = [] ∧ (∀ a, (s.vramRead a).toNat < M.NC) ∧
      s.packetBuf = [] ∧ s.frameLog = [] ∧
      s.portLog = [.acquire M.W M.H]) ∧
  State.build? Config.default = some State.reset

/-- R11, R12, R13, R95, R157: a core is built from a configuration exactly when every record of its tables is well formed,
RESET_MODE is a key and there are sixteen default colors; any other is refused. Both values of TEXT_MODE_COLORS give a core
with the spec's modes; that their tables hold the records of the test vectors too is the model's choice (log entry 7). -/
def Obligations.ConfigurationIsWellFormed : Prop :=
  (∀ (c : Configuration) (s : State), State.build? c = some s →
    (∀ m M, c.mode? m = some M →
      (1 ≤ M.W ∧ M.W ≤ 65535) ∧ (1 ≤ M.H ∧ M.H ≤ 65535) ∧ M.W * M.H ≤ 2 ^ 24 - 1 ∧ (M.NC = 16 ∨ M.NC = 256) ∧
        ∃ F, c.font? M.FONT0 = some F ∧ F.GW ≤ M.W ∧ F.GH ≤ M.H) ∧
    (∀ f F, c.font? f = some F →
      (F.GW = 8 ∨ F.GW = 9) ∧ 1 ≤ F.GH ∧ F.GH * 256 ≤ Configuration.romLength F.ROM)) ∧
  (∀ c : Configuration,
    ((∃ row ∈ c.FONT_TABLE, (row.2.GW ≠ 8 ∧ row.2.GW ≠ 9) ∨ row.2.GH < 1 ∨
        Configuration.romLength row.2.ROM < row.2.GH * 256) ∨
      (∃ row ∈ c.MODE_TABLE, row.2.W < 1 ∨ 65535 < row.2.W ∨ row.2.H < 1 ∨ 65535 < row.2.H ∨
        2 ^ 24 - 1 < row.2.W * row.2.H ∨ (row.2.NC ≠ 16 ∧ row.2.NC ≠ 256) ∨
        ∀ F, c.font? row.2.FONT0 = some F → row.2.W < F.GW ∨ row.2.H < F.GH) ∨
      (∀ row ∈ c.MODE_TABLE, row.1 ≠ c.RESET_MODE) ∨ c.DEFAULT16.length ≠ 16 ∨
      ¬ (c.MODE_TABLE.map (·.1)).Nodup ∨ ¬ (c.FONT_TABLE.map (·.1)).Nodup) ↔
    State.build? c = none) ∧
  (∀ n, n = 16 ∨ n = 256 →
    let c := Config.withTextColors n
    (∃ s, State.build? c = some s) ∧ c.mode? 1 = some ⟨320, 200, 256, 1⟩ ∧ c.mode? 2 = some ⟨640, 480, 16, 3⟩ ∧
      c.mode? 3 = some ⟨720, 400, n, 4⟩)

/-- R39: the address map is a bijection from the pixels onto the cells. -/
def Obligations.AddressMapIsABijection : Prop :=
  ∀ s : State,
    (∀ x y, x < s.W → y < s.H → s.addr x y = x + s.W * y ∧ s.addr x y < s.W * s.H) ∧
    (∀ x y x' y', x < s.W → x' < s.W → s.addr x y = s.addr x' y' → x = x' ∧ y = y') ∧
    (∀ a, a < s.W * s.H → ∃ x y, x < s.W ∧ y < s.H ∧ s.addr x y = a)

/-- R27: in every legal state the grid, floor division of the framebuffer by the glyph, has a column and a row, and a
glyph in a cell of it lies wholly inside the framebuffer. -/
def Obligations.GridCellsLieInsideTheFramebuffer : Prop :=
  ∀ s : State, s.Inv →
    s.gridCols = s.W / s.GW ∧ s.gridRows = s.H / s.GH ∧ 1 ≤ s.gridCols ∧ 1 ≤ s.gridRows ∧
    (∀ col, col < s.gridCols → col * s.GW + s.GW ≤ s.W) ∧ (∀ row, row < s.gridRows → row * s.GH + s.GH ≤ s.H)

/-- R128: Advance() moves the column on and wraps it, then the row; inside the grid this is the modulo step. -/
def Obligations.AdvanceWrapsColumnThenRow : Prop :=
  ∀ s : State, s.config.ok →
    s.advance = { s with curCol := s.advance.curCol, curRow := s.advance.curRow } ∧
    (s.curCol.toNat + 1 < s.gridCols →
      s.advance.curCol.toNat = s.curCol.toNat + 1 ∧ s.advance.curRow = s.curRow) ∧
    (s.gridCols ≤ s.curCol.toNat + 1 → s.curRow.toNat + 1 < s.gridRows →
      s.advance.curCol = 0 ∧ s.advance.curRow.toNat = s.curRow.toNat + 1) ∧
    (s.gridCols ≤ s.curCol.toNat + 1 → s.gridRows ≤ s.curRow.toNat + 1 →
      s.advance.curCol = 0 ∧ s.advance.curRow = 0) ∧
    (s.curCol.toNat < s.gridCols → s.curRow.toNat < s.gridRows →
      s.advance.curCol.toNat = (s.curCol.toNat + 1) % s.gridCols ∧
      s.advance.curRow.toNat =
        if s.curCol.toNat + 1 = s.gridCols then (s.curRow.toNat + 1) % s.gridRows else s.curRow.toNat)

/-- VRAM's data keeps its one form under every write, and a write is read back and touches nothing else. -/
def Obligations.VramWritesKeepTheCanonicalForm : Prop :=
  ∀ (s : State) (start : Nat) (bs : List Byte),
    (Memory.wf s.vram → Memory.wf (s.vramWriteRun start bs).vram) ∧
    (∀ k, k < bs.length → some ((s.vramWriteRun start bs).vramRead (start + k)) = bs[k]?) ∧
    (∀ a, a < start ∨ start + bs.length ≤ a → (s.vramWriteRun start bs).vramRead a = s.vramRead a)

/-! ## Mode control -/

/-- SET_MODE (R107 to R109). `granted` is the outcome of the acquisition: the effect is said for each, and the run takes the
next draw of `SurfaceAcquire`. The model's and no rule's: the release and the acquire that a refusal leaves in the port's log
(DEDUCED, log entries 12 and 22), the two draw counters (DESIGN CHOICE, log entries 4 and 5), and what an address of W*H or
more reads as (log entry 6). -/
def Obligations.SetModeEntersTheModeOrKeepsAllButSurf : Prop :=
  (∀ (s : State) (w0 : Word) (rest : List Word), s.packetBuf ++ s.port = w0 :: rest → w0.extractLsb' 24 8 = 0x01 →
    step s = exec (.setMode (w0.extractLsb' 0 24)) (s.taken rest)) ∧
  (∀ (s : State) (m : Id24), s.config.mode? m = none → exec (.setMode m) s = .next (s.done .unknownMode [])) ∧
  (∀ (s : State) (m : Id24) (M : ModeRecord), s.config.mode? m = some M →
    exec (.setMode m) s = .next (s.switchMode m M (Config.surfaceAcquire s.acquisitions)) ∧
    s.switchMode m M true =
      { config := s.config, mode := m, font := M.FONT0, curCol := 0, curRow := 0, surf := true
        pal := s.config.defaultPalette M.NC, vram := []
        packetBuf := s.packetBuf, port := s.port
        completions := s.completions ++ [⟨.ok, []⟩]
        portLog := s.portLog ++ (if s.surf then [.release] else []) ++ [.acquire M.W M.H]
        acquisitions := s.acquisitions + 1, vramEpoch := s.vramEpoch + 1 } ∧
    (s.config.ok → ∀ a, ((s.switchMode m M true).vramRead a).toNat < M.NC) ∧
    s.switchMode m M false =
      { s.done .resourceCreationFailed [] with
        surf := false
        portLog := s.portLog ++ (if s.surf then [.release] else []) ++ [.acquire M.W M.H]
        acquisitions := s.acquisitions + 1 })

/-! ## Palette -/

/-- SET_PALETTE (R112). -/
def Obligations.SetPaletteLoadsFromEntryZero : Prop :=
  (∀ (s : State) (w0 : Word) (ws rest : List Word), s.packetBuf ++ s.port = w0 :: (ws ++ rest) →
    w0.extractLsb' 24 8 = 0x02 → ws.length = (w0.extractLsb' 0 24).toNat →
    step s = exec (.setPalette (ws.map Color.fromPacked)) (s.taken rest)) ∧
  (∀ (s : State) (colors : List Color), s.NC < colors.length →
    exec (.setPalette colors) s = .next (s.done .invalidArgument [])) ∧
  (∀ (s : State) (colors : List Color), colors.length ≤ s.NC →
    ∃ p, exec (.setPalette colors) s = .next { s.done .ok [] with pal := p } ∧
      (∀ i, i < colors.length → p[i]? = colors[i]?) ∧ (∀ i, colors.length ≤ i → p[i]? = s.pal[i]?))

/-- SET_COLOR (R113). -/
def Obligations.SetColorWritesOneEntry : Prop :=
  (∀ (s : State) (w0 w1 : Word) (rest : List Word), s.packetBuf ++ s.port = w0 :: w1 :: rest →
    w0.extractLsb' 24 8 = 0x03 →
    step s = if w0.extractLsb' 8 16 = 0 then exec (.setColor (w0.extractLsb' 0 8) (Color.fromPacked w1)) (s.taken rest)
      else .next (s.illegalAfter rest)) ∧
  (∀ (s : State) (idx : Byte) (c : Color), s.NC ≤ idx.toNat →
    exec (.setColor idx c) s = .next (s.done .outOfRange [])) ∧
  (∀ (s : State) (idx : Byte) (c : Color), s.pal.length = s.NC → idx.toNat < s.NC →
    ∃ p, exec (.setColor idx c) s = .next { s.done .ok [] with pal := p } ∧
      p[idx.toNat]? = some c ∧ ∀ i, i ≠ idx.toNat → p[i]? = s.pal[i]?)

/-- GET_COLOR and Lookup (R111, R114). -/
def Obligations.GetColorAnswersThePackedEntry : Prop :=
  (∀ (s : State) (w0 : Word) (rest : List Word), s.packetBuf ++ s.port = w0 :: rest → w0.extractLsb' 24 8 = 0x04 →
    step s = if w0.extractLsb' 8 16 = 0 then exec (.getColor (w0.extractLsb' 0 8)) (s.taken rest)
      else .next (s.illegalAfter rest)) ∧
  (∀ (s : State) (idx : Byte), s.NC ≤ idx.toNat → exec (.getColor idx) s = .next (s.done .outOfRange [])) ∧
  (∀ (s : State) (idx : Byte), s.pal.length = s.NC → idx.toNat < s.NC →
    ∃ c, s.pal[idx.toNat]? = some c ∧
      exec (.getColor idx) s =
        .next (s.done .ok [BitVec.ofNat 32 (c.r.toNat * 65536 + c.g.toNat * 256 + c.b.toNat)]))

/-- RESET_PALETTE (R115) and the default palette (R29). -/
def Obligations.ResetPaletteRestoresTheDefault : Prop :=
  (∀ (s : State) (w0 : Word) (rest : List Word), s.packetBuf ++ s.port = w0 :: rest → w0.extractLsb' 24 8 = 0x05 →
    step s = if w0.extractLsb' 0 24 = 0 then exec .resetPalette (s.taken rest) else .next (s.illegalAfter rest)) ∧
  (∀ (s : State) (M : ModeRecord), s.config.ok → s.config.mode? s.mode = some M →
    ∃ p, exec .resetPalette s = .next { s.done .ok [] with pal := p } ∧ p.length = M.NC ∧
      (∀ i, i < 16 → p[i]? = s.config.DEFAULT16[i]?) ∧ (∀ i, 16 ≤ i → i < M.NC → p[i]? = some ⟨0, 0, 0⟩))

/-- R116: `NC` left rotations by one, each loaded with SET_PALETTE, give the palette back and touch nothing else. -/
def Obligations.RotatingThePaletteFullyRestoresIt : Prop :=
  ∀ s : State, s.pal.length = s.NC →
    (∀ i, i < s.NC → (hostRotate s).pal[i]? = s.pal[(i + 1) % s.NC]?) ∧
    (hostRotate^[s.NC] s).pal = s.pal ∧
    hostRotate^[s.NC] s = { s with completions := (hostRotate^[s.NC] s).completions }

/-! ## Pixels and blits -/

/-- SET_PIXEL (R118, R119). -/
def Obligations.SetPixelWritesOneCell : Prop :=
  (∀ (s : State) (w0 w1 : Word) (rest : List Word), s.packetBuf ++ s.port = w0 :: w1 :: rest →
    w0.extractLsb' 24 8 = 0x10 →
    step s = if w0.extractLsb' 8 16 = 0 then
        exec (.setPixel (w0.extractLsb' 0 8) (w1.extractLsb' 0 16) (w1.extractLsb' 16 16)) (s.taken rest)
      else .next (s.illegalAfter rest)) ∧
  (∀ (s : State) (idx : Byte) (x y : BitVec 16), s.W ≤ x.toNat ∨ s.H ≤ y.toNat ∨ s.NC ≤ idx.toNat →
    exec (.setPixel idx x y) s = .next (s.done .outOfRange [])) ∧
  (∀ (s : State) (idx : Byte) (x y : BitVec 16), x.toNat < s.W → y.toNat < s.H → idx.toNat < s.NC →
    ∃ t, exec (.setPixel idx x y) s = .next t ∧ t = { s.done .ok [] with vram := t.vram } ∧
      ∀ a, t.vramRead a = if a = x.toNat + s.W * y.toNat then idx else s.vramRead a)

/-- GET_PIXEL (R118, R120). -/
def Obligations.GetPixelAnswersTheCell : Prop :=
  (∀ (s : State) (w0 w1 : Word) (rest : List Word), s.packetBuf ++ s.port = w0 :: w1 :: rest →
    w0.extractLsb' 24 8 = 0x11 →
    step s = if w0.extractLsb' 0 24 = 0 then
        exec (.getPixel (w1.extractLsb' 0 16) (w1.extractLsb' 16 16)) (s.taken rest)
      else .next (s.illegalAfter rest)) ∧
  (∀ (s : State) (x y : BitVec 16), s.W ≤ x.toNat ∨ s.H ≤ y.toNat →
    exec (.getPixel x y) s = .next (s.done .outOfRange [])) ∧
  (∀ (s : State) (x y : BitVec 16), x.toNat < s.W → y.toNat < s.H →
    exec (.getPixel x y) s =
      .next (s.done .ok [BitVec.ofNat 32 (s.vramRead (x.toNat + s.W * y.toNat)).toNat]))

/-- BLIT_FULL (R121). -/
def Obligations.BlitFullReplacesEveryCell : Prop :=
  (∀ (s : State) (w0 : Word) (ws rest : List Word), s.packetBuf ++ s.port = w0 :: (ws ++ rest) →
    w0.extractLsb' 24 8 = 0x12 → ws.length = ((w0.extractLsb' 0 24).toNat + 3) / 4 →
    step s = exec (.blitFull (Operand.unpack (w0.extractLsb' 0 24).toNat ws)) (s.taken rest)) ∧
  (∀ (s : State) (pix : List Byte), pix.length ≠ s.W * s.H →
    exec (.blitFull pix) s = .next (s.done .invalidArgument [])) ∧
  (∀ (s : State) (pix : List Byte), pix.length = s.W * s.H → (∃ p ∈ pix, s.NC ≤ p.toNat) →
    exec (.blitFull pix) s = .next (s.done .outOfRange [])) ∧
  (∀ (s : State) (pix : List Byte), pix.length = s.W * s.H → (∀ p ∈ pix, p.toNat < s.NC) →
    ∃ t, exec (.blitFull pix) s = .next t ∧ t = { s.done .ok [] with vram := t.vram } ∧
      (∀ k, k < s.W * s.H → some (t.vramRead k) = pix[k]?) ∧ (∀ a, s.W * s.H ≤ a → t.vramRead a = s.vramRead a))

/-- BLIT_SPRITE and the clipping copy (R122 to R125), cell by cell. -/
def Obligations.BlitSpriteCopiesExactlyTheIntersection : Prop :=
  (∀ (s : State) (w0 w1 w2 w3 : Word) (ws rest : List Word),
    s.packetBuf ++ s.port = w0 :: w1 :: w2 :: w3 :: (ws ++ rest) → w0.extractLsb' 24 8 = 0x13 →
    ws.length = ((w3.extractLsb' 0 16).toNat * (w3.extractLsb' 16 16).toNat + 3) / 4 →
    step s = if w0.extractLsb' 0 24 = 0 then
        exec (.blitSprite w1 w2 (w3.extractLsb' 0 16) (w3.extractLsb' 16 16)
          (Operand.unpack ((w3.extractLsb' 0 16).toNat * (w3.extractLsb' 16 16).toNat) ws)) (s.taken rest)
      else .next (s.illegalAfter rest)) ∧
  (∀ (s : State) (x y : Word) (w h : BitVec 16) (pix : List Byte), w.toNat = 0 ∨ h.toNat = 0 →
    exec (.blitSprite x y w h pix) s = .next (s.done .invalidArgument [])) ∧
  (∀ (s : State) (x y : Word) (w h : BitVec 16) (pix : List Byte), w.toNat ≠ 0 → h.toNat ≠ 0 →
    (∃ p ∈ pix, s.NC ≤ p.toNat) → exec (.blitSprite x y w h pix) s = .next (s.done .outOfRange [])) ∧
  (∀ (s : State) (x y : Word) (w h : BitVec 16) (pix : List Byte), w.toNat ≠ 0 → h.toNat ≠ 0 →
    pix.length = w.toNat * h.toNat → (∀ p ∈ pix, p.toNat < s.NC) →
    ∃ t, exec (.blitSprite x y w h pix) s = .next t ∧ t = { s.done .ok [] with vram := t.vram } ∧
      (∀ xx yy : Nat, xx < s.W → yy < s.H →
        some (t.vramRead (xx + s.W * yy)) =
          if (x.toInt ≤ xx ∧ (xx : Int) < x.toInt + w.toNat) ∧ (y.toInt ≤ yy ∧ (yy : Int) < y.toInt + h.toNat) then
            pix[((xx : Int) - x.toInt).toNat + w.toNat * ((yy : Int) - y.toInt).toNat]?
          else some (s.vramRead (xx + s.W * yy))) ∧
      (∀ a, s.W * s.H ≤ a → t.vramRead a = s.vramRead a))

/-! ## Text -/

/-- PUTCHAR_AT (R126): the glyph of the active font, clipped as a sprite is, the cursor unchanged. -/
def Obligations.PutcharAtDrawsTheClippedGlyph : Prop :=
  (∀ (s : State) (w0 w1 w2 : Word) (rest : List Word), s.packetBuf ++ s.port = w0 :: w1 :: w2 :: rest →
    w0.extractLsb' 24 8 = 0x20 →
    step s = exec (.putcharAt (w0.extractLsb' 0 8) (w0.extractLsb' 8 8) (w0.extractLsb' 16 8) w1 w2) (s.taken rest)) ∧
  (∀ (s : State) (code fg bg : Byte) (x y : Word), s.NC ≤ fg.toNat ∨ s.NC ≤ bg.toNat →
    exec (.putcharAt code fg bg x y) s = .next (s.done .outOfRange [])) ∧
  (∀ (s : State) (F : FontRecord) (code fg bg : Byte) (x y : Word), s.config.ok →
    s.config.font? s.font = some F →
    fg.toNat < s.NC → bg.toNat < s.NC →
    ∃ t, exec (.putcharAt code fg bg x y) s = .next t ∧ t = { s.done .ok [] with vram := t.vram } ∧
      (∀ xx yy : Nat, xx < s.W → yy < s.H →
        some (t.vramRead (xx + s.W * yy)) =
          if (x.toInt ≤ xx ∧ (xx : Int) < x.toInt + F.GW) ∧ (y.toInt ≤ yy ∧ (yy : Int) < y.toInt + F.GH) then
            (glyph s.config s.font code fg bg)[((xx : Int) - x.toInt).toNat + F.GW * ((yy : Int) - y.toInt).toNat]?
          else some (s.vramRead (xx + s.W * yy))) ∧
      (∀ a, s.W * s.H ≤ a → t.vramRead a = s.vramRead a))

/-- PUTCHAR (R127): the glyph at the cursor's cell, clipped, and the cursor advanced (R128). -/
def Obligations.PutcharDrawsAtTheCursorAndAdvances : Prop :=
  (∀ (s : State) (w0 : Word) (rest : List Word), s.packetBuf ++ s.port = w0 :: rest → w0.extractLsb' 24 8 = 0x21 →
    step s = exec (.putchar (w0.extractLsb' 0 8) (w0.extractLsb' 8 8) (w0.extractLsb' 16 8)) (s.taken rest)) ∧
  (∀ (s : State) (code fg bg : Byte), s.NC ≤ fg.toNat ∨ s.NC ≤ bg.toNat →
    exec (.putchar code fg bg) s = .next (s.done .outOfRange [])) ∧
  (∀ (s : State) (F : FontRecord) (code fg bg : Byte), s.config.ok → s.config.font? s.font = some F →
    fg.toNat < s.NC → bg.toNat < s.NC →
    ∃ t, exec (.putchar code fg bg) s = .next t ∧
      t = { s.done .ok [] with vram := t.vram, curCol := t.curCol, curRow := t.curRow } ∧
      (t.curCol.toNat, t.curRow.toNat) =
        (if s.curCol.toNat + 1 < s.W / F.GW then (s.curCol.toNat + 1, s.curRow.toNat)
        else if s.curRow.toNat + 1 < s.H / F.GH then (0, s.curRow.toNat + 1) else (0, 0)) ∧
      (∀ xx yy : Nat, xx < s.W → yy < s.H →
        some (t.vramRead (xx + s.W * yy)) =
          if (s.curCol.toNat * F.GW ≤ xx ∧ xx < s.curCol.toNat * F.GW + F.GW) ∧
            (s.curRow.toNat * F.GH ≤ yy ∧ yy < s.curRow.toNat * F.GH + F.GH) then
            (glyph s.config s.font code fg bg)[(xx - s.curCol.toNat * F.GW) + F.GW * (yy - s.curRow.toNat * F.GH)]?
          else some (s.vramRead (xx + s.W * yy))) ∧
      (∀ a, s.W * s.H ≤ a → t.vramRead a = s.vramRead a))

/-- SET_CURSOR (R129). -/
def Obligations.SetCursorWrapsIntoTheGrid : Prop :=
  (∀ (s : State) (w0 w1 : Word) (rest : List Word), s.packetBuf ++ s.port = w0 :: w1 :: rest →
    w0.extractLsb' 24 8 = 0x22 →
    step s = if w0.extractLsb' 0 24 = 0 then
        exec (.setCursor (w1.extractLsb' 0 16) (w1.extractLsb' 16 16)) (s.taken rest)
      else .next (s.illegalAfter rest)) ∧
  (∀ (s : State) (col row : BitVec 16),
    ∃ c r : BitVec 16, exec (.setCursor col row) s = .next { s.done .ok [] with curCol := c, curRow := r } ∧
      c.toNat = col.toNat % (s.W / s.GW) ∧ r.toNat = row.toNat % (s.H / s.GH))

/-- GET_CURSOR (R130). -/
def Obligations.GetCursorAnswersTheStoredCursor : Prop :=
  (∀ (s : State) (w0 : Word) (rest : List Word), s.packetBuf ++ s.port = w0 :: rest → w0.extractLsb' 24 8 = 0x23 →
    step s = if w0.extractLsb' 0 24 = 0 then exec .getCursor (s.taken rest) else .next (s.illegalAfter rest)) ∧
  (∀ s : State, exec .getCursor s =
    .next (s.done .ok [BitVec.ofNat 32 (s.curRow.toNat * 65536 + s.curCol.toNat)]))

/-- SET_FONT (R131). -/
def Obligations.SetFontTakesAKnownFontThatFits : Prop :=
  (∀ (s : State) (w0 : Word) (rest : List Word), s.packetBuf ++ s.port = w0 :: rest → w0.extractLsb' 24 8 = 0x24 →
    step s = exec (.setFont (w0.extractLsb' 0 24)) (s.taken rest)) ∧
  (∀ (s : State) (f : Id24), s.config.font? f = none → exec (.setFont f) s = .next (s.done .invalidArgument [])) ∧
  (∀ (s : State) (f : Id24) (F : FontRecord), s.config.font? f = some F →
    exec (.setFont f) s = .next
      (if s.W < F.GW ∨ s.H < F.GH then s.done .invalidArgument [] else { s.done .ok [] with font := f }))

/-- GET_FONT (R132). -/
def Obligations.GetFontAnswersTheActiveFont : Prop :=
  (∀ (s : State) (w0 : Word) (rest : List Word), s.packetBuf ++ s.port = w0 :: rest → w0.extractLsb' 24 8 = 0x25 →
    step s = if w0.extractLsb' 0 24 = 0 then exec .getFont (s.taken rest) else .next (s.illegalAfter rest)) ∧
  (∀ s : State, exec .getFont s = .next (s.done .ok [BitVec.ofNat 32 s.font.toNat]))

/-! ## Glyphs -/

/-- R90 to R93: the rasterizer, pixel by pixel, and its length, for every font of every well-formed configuration. -/
def Obligations.GlyphIsRasterizedMsbFirst : Prop :=
  ∀ (cfg : Configuration) (f : Id24) (F : FontRecord) (code fg bg : Byte), cfg.ok → cfg.font? f = some F →
    (glyph cfg f code fg bg).length = F.GW * F.GH ∧
    ∀ r c, r < F.GH → c < F.GW →
      (glyph cfg f code fg bg)[r * F.GW + c]? =
        some (if c < 8 ∧ (cfg.rom f (F.GH * code.toNat + r)).getLsbD (7 - c) = true then fg else bg)

/-- GET_GLYPH (R96): the glyph's indices, four to a word, zero padding. -/
def Obligations.GetGlyphAnswersThePackedGlyph : Prop :=
  (∀ (s : State) (w0 w1 : Word) (rest : List Word), s.packetBuf ++ s.port = w0 :: w1 :: rest →
    w0.extractLsb' 24 8 = 0x26 →
    step s = if w1.extractLsb' 24 8 = 0 then
        exec (.getGlyph (w1.extractLsb' 0 24) (w0.extractLsb' 0 8) (w0.extractLsb' 8 8) (w0.extractLsb' 16 8))
          (s.taken rest)
      else .next (s.illegalAfter rest)) ∧
  (∀ (s : State) (f : Id24) (code fg bg : Byte), s.config.font? f = none →
    exec (.getGlyph f code fg bg) s = .next (s.done .invalidArgument [])) ∧
  (∀ (s : State) (f : Id24) (F : FontRecord) (code fg bg : Byte), s.config.ok → s.config.font? f = some F →
    ∃ data, exec (.getGlyph f code fg bg) s = .next (s.done .ok data) ∧ data.length = (F.GW * F.GH + 3) / 4 ∧
      ∀ k, k < 4 * data.length →
        data[k / 4]?.map (fun w => BitVec.ofNat 8 (w.toNat / 2 ^ (8 * (k % 4)))) =
          some ((glyph s.config f code fg bg).getD k 0))

/-- FONT_SIZE (R97). Of a font whose height its 16-bit field cannot hold the spec states no result: the answer is still one
word with the width in its low half, and its high half is the model's free value (DESIGN CHOICE, log entry 23). -/
def Obligations.FontSizeAnswersHeightAndWidth : Prop :=
  (∀ (s : State) (w0 : Word) (rest : List Word), s.packetBuf ++ s.port = w0 :: rest → w0.extractLsb' 24 8 = 0x27 →
    step s = exec (.fontSize (w0.extractLsb' 0 24)) (s.taken rest)) ∧
  (∀ (s : State) (f : Id24), s.config.font? f = none → exec (.fontSize f) s = .next (s.done .invalidArgument [])) ∧
  (∀ (s : State) (f : Id24) (F : FontRecord), s.config.ok → s.config.font? f = some F →
    ∃ high : BitVec 16, exec (.fontSize f) s = .next (s.done .ok [BitVec.ofNat 32 (high.toNat * 65536 + F.GW)]) ∧
      (F.GH < 65536 → high.toNat = F.GH))

/-! ## Resolve -/

/-- SHOW (R133). -/
def Obligations.ShowPresentsTheResolvedFrame : Prop :=
  (∀ (s : State) (w0 : Word) (rest : List Word), s.packetBuf ++ s.port = w0 :: rest → w0.extractLsb' 24 8 = 0x30 →
    step s = if w0.extractLsb' 0 24 = 0 then exec .showFrame (s.taken rest) else .next (s.illegalAfter rest)) ∧
  (∀ s : State, s.surf = false → exec .showFrame s = .next (s.done .resourceCreationFailed [])) ∧
  (∀ s : State, s.surf = true → s.Inv →
    ∃ f : Frame, exec .showFrame s = .next { s.done .ok [] with portLog := s.portLog ++ [.present f] } ∧
      f.width = s.W ∧ f.height = s.H ∧ f.pitch = 4 * s.W ∧ f.pixels.length = s.W * s.H ∧
      ∀ a, a < s.W * s.H →
        ∃ c, s.pal[(s.vramRead a).toNat]? = some c ∧
          f.pixels[a]? = some (BitVec.ofNat 32 (c.r.toNat * 65536 + c.g.toNat * 256 + c.b.toNat)))

/-- R46: a frame word as bytes is b, g, r, 0, and a row of a presented frame is 4*W bytes. -/
def Obligations.FrameBytesAreLittleEndian : Prop :=
  (∀ s : State, (resolve s).pitch = 4 * s.W) ∧
  ∀ (f : Frame),
    f.bytes.length = 4 * f.pixels.length ∧
    ∀ (i : Nat) (c : Color), f.pixels[i]? = some c.toPacked →
      f.bytes[4 * i]? = some c.b ∧ f.bytes[4 * i + 1]? = some c.g ∧ f.bytes[4 * i + 2]? = some c.r ∧
        f.bytes[4 * i + 3]? = some 0

/-! ## Colors -/

/-- R77 to R79: the packed form and its round trips. -/
def Obligations.PackedColorsRoundTrip : Prop :=
  (∀ c : Color, c.toPacked.toNat = c.r.toNat * 65536 + c.g.toNat * 256 + c.b.toNat) ∧
  (∀ p : Word, (Color.fromPacked p).r.toNat = p.toNat / 65536 % 256 ∧ (Color.fromPacked p).g.toNat = p.toNat / 256 % 256 ∧
    (Color.fromPacked p).b.toNat = p.toNat % 256) ∧
  (∀ c : Color, Color.fromPacked c.toPacked = c) ∧
  (∀ p : Word, (Color.fromPacked p).toPacked.toNat = p.toNat % 2 ^ 24)

/-- R80 to R87: the operators, channel by channel, clamped to [0, 255]. -/
def Obligations.ColorArithmeticSaturates : Prop :=
  ∀ (c d : Color) (s : Byte) (ch : Color → Byte), ch = Color.r ∨ ch = Color.g ∨ ch = Color.b →
    (ch (Color.add c d)).toNat = min ((ch c).toNat + (ch d).toNat) 255 ∧
    (ch (Color.addScalar c s)).toNat = min ((ch c).toNat + s.toNat) 255 ∧
    (ch (Color.sub c d)).toNat = (ch c).toNat - (ch d).toNat ∧
    (ch (Color.subScalar c s)).toNat = (ch c).toNat - s.toNat ∧
    (ch (Color.mul c d)).toNat = min ((ch c).toNat * (ch d).toNat) 255 ∧
    (ch (Color.mulScalar c s)).toNat = min ((ch c).toNat * s.toNat) 255 ∧
    (ch (Color.inc c)).toNat = min ((ch c).toNat + 1) 255 ∧
    (ch (Color.dec c)).toNat = (ch c).toNat - 1

/-- R89: subtraction undoes addition, and addition subtraction, exactly in the channels that did not saturate. -/
def Obligations.ColorInverseLawHoldsUpToClamping : Prop :=
  ∀ (c x : Color) (s : Byte) (ch : Color → Byte), ch = Color.r ∨ ch = Color.g ∨ ch = Color.b →
    (ch (Color.sub (Color.add c x) x)).toNat =
      (if (ch c).toNat + (ch x).toNat ≤ 255 then (ch c).toNat else 255 - (ch x).toNat) ∧
    (ch (Color.add (Color.sub c x) x)).toNat =
      (if (ch x).toNat ≤ (ch c).toNat then (ch c).toNat else (ch x).toNat) ∧
    (ch (Color.subScalar (Color.addScalar c s) s)).toNat =
      (if (ch c).toNat + s.toNat ≤ 255 then (ch c).toNat else 255 - s.toNat) ∧
    (ch (Color.addScalar (Color.subScalar c s) s)).toNat =
      (if s.toNat ≤ (ch c).toNat then (ch c).toNat else s.toNat)

/-! ## Sprite descriptors -/

/-- R100, R101: construction, and the sprite of a glyph, of a font whose height the descriptor can hold (log entry 18). -/
def Obligations.SpriteConstructionChecksItsSize : Prop :=
  (∀ (w h : BitVec 16) (src : Option (List Byte)), w.toNat < 1 ∨ h.toNat < 1 →
    spriteNew w h src = .error .invalidArgument) ∧
  (∀ (w h : BitVec 16) (src : List Byte), src.length ≠ w.toNat * h.toNat →
    spriteNew w h (some src) = .error .invalidArgument) ∧
  (∀ (w h : BitVec 16), 1 ≤ w.toNat → 1 ≤ h.toNat →
    spriteNew w h none = .ok ⟨w, h, 0, 0, List.replicate (w.toNat * h.toNat) 0⟩) ∧
  (∀ (w h : BitVec 16) (src : List Byte), 1 ≤ w.toNat → 1 ≤ h.toNat → src.length = w.toNat * h.toNat →
    spriteNew w h (some src) = .ok ⟨w, h, 0, 0, src⟩) ∧
  (∀ (c : Configuration) (f : Id24) (F : FontRecord) (code fg bg : Byte), c.ok → c.font? f = some F → F.GH < 2 ^ 16 →
    ∃ p, spriteOfGlyph c f code fg bg = .ok p ∧ p.w.toNat = F.GW ∧ p.h.toNat = F.GH ∧ p.pix = glyph c f code fg bg)

/-- R102, R103: a move wraps modulo 2^32 and changes the position alone; the accessors read what was set. -/
def Obligations.SpriteMoveWrapsModulo32Bits : Prop :=
  (∀ (p : Sprite) (dx dy : Word),
    spriteMove dx dy p = { p with x := (spriteMove dx dy p).x, y := (spriteMove dx dy p).y } ∧
    (spriteMove dx dy p).x.toNat = (p.x.toNat + dx.toNat) % 2 ^ 32 ∧
    (spriteMove dx dy p).y.toNat = (p.y.toNat + dy.toNat) % 2 ^ 32) ∧
  (∀ (p : Sprite) (x y : Word),
    spriteSetPosition x y p = { p with x := x, y := y } ∧
    spritePosition (spriteSetPosition x y p) = (x.toInt, y.toInt) ∧ spriteSize (spriteSetPosition x y p) = spriteSize p ∧
    spriteSize p = (p.w.toNat, p.h.toNat))

/-- R105: the packet that carries a descriptor, and that the core reads that descriptor from it. -/
def Obligations.SpritePacketCarriesTheDescriptor : Prop :=
  ∀ p : Sprite, spriteOk p →
    (∃ dim : Word, encode (spriteCommand p) = 0x13000000 :: p.x :: p.y :: dim :: Operand.pack p.pix ∧
      dim.toNat = p.h.toNat * 65536 + p.w.toNat) ∧
    decode (encode (spriteCommand p)) = .command (.blitSprite p.x p.y p.w p.h p.pix) (4 + (p.pix.length + 3) / 4)

/-! ## The assembler -/

/-- R74: each pseudo-instruction is the words of the commands shown, and an operand that does not fit is refused (R73). -/
def Obligations.PseudoInstructionsExpandAsShown : Prop :=
  ∀ (area : Nat) (code fg x y idx r g b : Int),
    Asm.words area ⟨"putchar", [code, fg]⟩ = Asm.words area ⟨"putchar", [code, fg, 0]⟩ ∧
    Asm.words area ⟨"putchar_at", [code, fg, x, y]⟩ = Asm.words area ⟨"putchar_at", [code, fg, 0, x, y]⟩ ∧
    (0 ≤ r → r < 256 → 0 ≤ g → g < 256 → 0 ≤ b → b < 256 →
      Asm.words area ⟨"set_rgb", [idx, r, g, b]⟩ =
        Asm.words area ⟨"set_color", [idx, r * 65536 + g * 256 + b]⟩) ∧
    (0 < area → Asm.words area ⟨"clear", [idx]⟩ = Asm.words area ⟨"blit_full", List.replicate area idx⟩) ∧
    (∀ data : List Word, data.length < 2 ^ 24 →
      ∃ w0 : Word, w0.toNat = 0x02000000 + data.length ∧
        Asm.words area ⟨"set_palette_raw", (data.length : Int) :: data.map (fun w => (w.toNat : Int))⟩ =
          some (w0 :: data)) ∧
    (idx < 0 ∨ 256 ≤ idx → Asm.words area ⟨"get_color", [idx]⟩ = none)
end

