-- ==== Sys2Proof/Laws/Memory.lean ====
section
/-! SUPPORT. The laws of VRAM as data: what a read gives after a write, that every write keeps the canonical form, and the
same through the state. -/

namespace Sys2Proof
namespace Machine
namespace Memory

theorem run_length (start : Nat) (bs : List Byte) : (run start bs).length = bs.length := by
  induction bs generalizing start with
  | nil => rfl
  | cons b bs ih => simp [run, ih]

/-- The cells of a run: their addresses, and which byte each holds. -/
theorem mem_run (start : Nat) (bs : List Byte) (c : Host.Cell) :
    c ∈ run start bs ↔ start ≤ c.1 ∧ bs[c.1 - start]? = some c.2 := by
  induction bs generalizing start with
  | nil => simp [run]
  | cons b bs ih =>
    simp only [run, List.mem_cons, ih]
    constructor
    · rintro (rfl | ⟨h, h'⟩)
      · simp
      · refine ⟨by omega, ?_⟩
        rw [show c.1 - start = (c.1 - (start + 1)) + 1 by omega]
        simpa using h'
    · rintro ⟨h, h'⟩
      rcases Nat.eq_or_lt_of_le h with e | lt
      · left
        rw [← e] at h'
        ext
        · exact e.symm
        · simp at h'
          simp [h']
      · right
        refine ⟨lt, ?_⟩
        rw [show c.1 - start = (c.1 - (start + 1)) + 1 by omega] at h'
        simpa using h'

theorem read?_nil (a : Nat) : read? [] a = none := rfl

theorem read?_cons (c : Host.Cell) (m : List Host.Cell) (a : Nat) :
    read? (c :: m) a = if c.1 = a then some c.2 else read? m a := by
  by_cases h : c.1 = a <;> simp [read?, h]

theorem read?_append (m n : List Host.Cell) (a : Nat) : read? (m ++ n) a = (read? m a).or (read? n a) := by
  induction m with
  | nil => simp [read?_nil]
  | cons c m ih =>
    rw [List.cons_append, read?_cons, read?_cons]
    split <;> simp_all

theorem read?_filter (p : Nat → Bool) (m : List Host.Cell) (a : Nat) :
    read? (m.filter (fun c => p c.1)) a = if p a then read? m a else none := by
  induction m with
  | nil => simp [read?_nil]
  | cons c m ih =>
    rw [List.filter_cons, read?_cons]
    by_cases hc : c.1 = a
    · subst hc
      by_cases hp : p c.1 <;> simp_all [read?_cons]
    · by_cases hp : p c.1 <;> simp_all [read?_cons]

theorem read?_run (start : Nat) (bs : List Byte) (a : Nat) :
    read? (run start bs) a = if start ≤ a then bs[a - start]? else none := by
  induction bs generalizing start with
  | nil => simp [run, read?_nil]
  | cons b bs ih =>
    rw [run, read?_cons, ih]
    by_cases h : start = a
    · simp [h]
    · by_cases h' : start ≤ a
      · simp only [h, if_false, h', if_true, show start + 1 ≤ a by omega,
          show a - start = (a - (start + 1)) + 1 by omega, List.getElem?_cons_succ]
      · simp [h, h', show ¬ start + 1 ≤ a by omega]

/-- Read after write: the byte of the run inside it, what stood there outside it. -/
theorem read?_writeRun (start : Nat) (bs : List Byte) (m : List Host.Cell) (a : Nat) :
    read? (writeRun start bs m) a =
      if start ≤ a ∧ a < start + bs.length then bs[a - start]? else read? m a := by
  rw [writeRun, read?_append, read?_append, read?_filter (fun k => decide (k < start)), read?_run,
    read?_filter (fun k => decide (start + bs.length ≤ k))]
  by_cases h1 : a < start
  · simp [h1, show ¬ start ≤ a by omega, show ¬ start + bs.length ≤ a by omega]
  · by_cases h2 : a < start + bs.length
    · have : a - start < bs.length := by omega
      simp [h1, h2, show start ≤ a by omega, this]
    · simp [h1, h2, show start ≤ a by omega, show start + bs.length ≤ a by omega,
        List.getElem?_eq_none (show bs.length ≤ a - start by omega)]

theorem mem_writeRun (start : Nat) (bs : List Byte) (m : List Host.Cell) (c : Host.Cell) :
    c ∈ writeRun start bs m ↔
      (c ∈ m ∧ c.1 < start) ∨ (start ≤ c.1 ∧ bs[c.1 - start]? = some c.2) ∨ (c ∈ m ∧ start + bs.length ≤ c.1) := by
  simp [writeRun, mem_run]

theorem wf_run (start : Nat) (bs : List Byte) : wf (run start bs) := by
  induction bs generalizing start with
  | nil => simp [run]
  | cons b bs ih =>
    refine List.pairwise_cons.2 ⟨fun c hc => ?_, ih (start + 1)⟩
    have := ((mem_run _ _ _).1 hc).1
    omega

/-- Every memory operation keeps the canonical form: `writeRun` is the only one. -/
theorem wf_writeRun (start : Nat) (bs : List Byte) (m : List Host.Cell) (h : wf m) : wf (writeRun start bs m) := by
  refine List.pairwise_append.2 ⟨List.pairwise_append.2 ⟨h.filter _, wf_run _ _, ?_⟩, h.filter _, ?_⟩
  · intro c hc d hd
    have h1 := (List.mem_filter.1 hc).2
    have h2 := ((mem_run _ _ _).1 hd).1
    simp at h1
    omega
  · intro c hc d hd
    have h2 := (List.mem_filter.1 hd).2
    simp only [decide_eq_true_eq] at h2
    rcases List.mem_append.1 hc with hc | hc
    · have h1 := (List.mem_filter.1 hc).2
      simp at h1
      omega
    · obtain ⟨_, h1⟩ := (mem_run _ _ _).1 hc
      have := (List.getElem?_eq_some_iff.1 h1).1
      omega

end Memory

namespace State

theorem vramRead_eq (s : State) (a : Nat) :
    s.vramRead a = (Memory.read? s.vram a).getD (s.vramFree a) := rfl

/-- Read after write through the state: inside the run its byte, outside it the old one. -/
theorem vramRead_vramWriteRun (s : State) (start : Nat) (bs : List Byte) (a : Nat) :
    (s.vramWriteRun start bs).vramRead a =
      if start ≤ a ∧ a < start + bs.length then bs.getD (a - start) 0 else s.vramRead a := by
  show (Memory.read? (Memory.writeRun start bs s.vram) a).getD (s.vramFree a) = _
  rw [Memory.read?_writeRun]
  split
  · next h =>
    have h' : a - start < bs.length := by omega
    simp [List.getD, h']
  · rfl

/-- Read after a write of one cell. -/
theorem vramRead_vramWrite (s : State) (a b : Nat) (v : Byte) :
    (s.vramWrite a v).vramRead b = if b = a then v else s.vramRead b := by
  rw [vramWrite, vramRead_vramWriteRun]
  by_cases h : b = a
  · simp [h]
  · simp only [h, if_false, List.length_singleton, show ¬ (a ≤ b ∧ b < a + 1) by omega]

/-- Two states with the same memory, number of colors and allocation read the same. -/
theorem vramRead_congr {s t : State} (hv : t.vram = s.vram) (hn : t.NC = s.NC) (he : t.vramEpoch = s.vramEpoch)
    (a : Nat) : t.vramRead a = s.vramRead a := by
  simp [vramRead, vramFree, hn, hv, he]

end State
end Machine
end Sys2Proof
end

