-- ==== Sys2Proof/Laws/State.lean ====
section
/-! SUPPORT. One lemma per field per update of the state, each true by rfl, and what the values derived from MODE and FONT
are after an update: no later proof unfolds a record update. -/

namespace Sys2Proof
namespace Machine
namespace State

variable (s : State)

/-! ### complete -/
@[simp] theorem complete_mode (e : Status) (data : List Word) : (s.complete e data).mode = s.mode := rfl
@[simp] theorem complete_font (e : Status) (data : List Word) : (s.complete e data).font = s.font := rfl
@[simp] theorem complete_curCol (e : Status) (data : List Word) : (s.complete e data).curCol = s.curCol := rfl
@[simp] theorem complete_curRow (e : Status) (data : List Word) : (s.complete e data).curRow = s.curRow := rfl
@[simp] theorem complete_config (e : Status) (data : List Word) : (s.complete e data).config = s.config := rfl
@[simp] theorem complete_surf (e : Status) (data : List Word) : (s.complete e data).surf = s.surf := rfl
@[simp] theorem complete_pal (e : Status) (data : List Word) : (s.complete e data).pal = s.pal := rfl
@[simp] theorem complete_vram (e : Status) (data : List Word) : (s.complete e data).vram = s.vram := rfl
@[simp] theorem complete_packetBuf (e : Status) (data : List Word) : (s.complete e data).packetBuf = s.packetBuf := rfl
@[simp] theorem complete_port (e : Status) (data : List Word) : (s.complete e data).port = s.port := rfl
@[simp] theorem complete_completions (e : Status) (data : List Word) : (s.complete e data).completions = s.completions ++ [⟨e, data⟩] := rfl
@[simp] theorem complete_portLog (e : Status) (data : List Word) : (s.complete e data).portLog = s.portLog := rfl
@[simp] theorem complete_acquisitions (e : Status) (data : List Word) : (s.complete e data).acquisitions = s.acquisitions := rfl
@[simp] theorem complete_vramEpoch (e : Status) (data : List Word) : (s.complete e data).vramEpoch = s.vramEpoch := rfl
@[simp] theorem complete_modeRec (e : Status) (data : List Word) : (s.complete e data).modeRec = s.modeRec := rfl
@[simp] theorem complete_W (e : Status) (data : List Word) : (s.complete e data).W = s.W := rfl
@[simp] theorem complete_H (e : Status) (data : List Word) : (s.complete e data).H = s.H := rfl
@[simp] theorem complete_NC (e : Status) (data : List Word) : (s.complete e data).NC = s.NC := rfl
@[simp] theorem complete_fontRec (e : Status) (data : List Word) : (s.complete e data).fontRec = s.fontRec := rfl
@[simp] theorem complete_GW (e : Status) (data : List Word) : (s.complete e data).GW = s.GW := rfl
@[simp] theorem complete_GH (e : Status) (data : List Word) : (s.complete e data).GH = s.GH := rfl
@[simp] theorem complete_gridCols (e : Status) (data : List Word) : (s.complete e data).gridCols = s.gridCols := rfl
@[simp] theorem complete_gridRows (e : Status) (data : List Word) : (s.complete e data).gridRows = s.gridRows := rfl
@[simp] theorem complete_vramRead (e : Status) (data : List Word) (i : Nat) : (s.complete e data).vramRead i = s.vramRead i := rfl

/-! ### respond -/
@[simp] theorem respond_mode (data : List Word) : (s.respond data).mode = s.mode := rfl
@[simp] theorem respond_font (data : List Word) : (s.respond data).font = s.font := rfl
@[simp] theorem respond_curCol (data : List Word) : (s.respond data).curCol = s.curCol := rfl
@[simp] theorem respond_curRow (data : List Word) : (s.respond data).curRow = s.curRow := rfl
@[simp] theorem respond_config (data : List Word) : (s.respond data).config = s.config := rfl
@[simp] theorem respond_surf (data : List Word) : (s.respond data).surf = s.surf := rfl
@[simp] theorem respond_pal (data : List Word) : (s.respond data).pal = s.pal := rfl
@[simp] theorem respond_vram (data : List Word) : (s.respond data).vram = s.vram := rfl
@[simp] theorem respond_packetBuf (data : List Word) : (s.respond data).packetBuf = s.packetBuf := rfl
@[simp] theorem respond_port (data : List Word) : (s.respond data).port = s.port := rfl
@[simp] theorem respond_completions (data : List Word) : (s.respond data).completions = s.completions ++ [⟨.ok, data⟩] := rfl
@[simp] theorem respond_portLog (data : List Word) : (s.respond data).portLog = s.portLog := rfl
@[simp] theorem respond_acquisitions (data : List Word) : (s.respond data).acquisitions = s.acquisitions := rfl
@[simp] theorem respond_vramEpoch (data : List Word) : (s.respond data).vramEpoch = s.vramEpoch := rfl
@[simp] theorem respond_modeRec (data : List Word) : (s.respond data).modeRec = s.modeRec := rfl
@[simp] theorem respond_W (data : List Word) : (s.respond data).W = s.W := rfl
@[simp] theorem respond_H (data : List Word) : (s.respond data).H = s.H := rfl
@[simp] theorem respond_NC (data : List Word) : (s.respond data).NC = s.NC := rfl
@[simp] theorem respond_fontRec (data : List Word) : (s.respond data).fontRec = s.fontRec := rfl
@[simp] theorem respond_GW (data : List Word) : (s.respond data).GW = s.GW := rfl
@[simp] theorem respond_GH (data : List Word) : (s.respond data).GH = s.GH := rfl
@[simp] theorem respond_gridCols (data : List Word) : (s.respond data).gridCols = s.gridCols := rfl
@[simp] theorem respond_gridRows (data : List Word) : (s.respond data).gridRows = s.gridRows := rfl
@[simp] theorem respond_vramRead (data : List Word) (i : Nat) : (s.respond data).vramRead i = s.vramRead i := rfl

/-! ### raise -/
@[simp] theorem raise_mode (e : Status) : (s.raise e).mode = s.mode := rfl
@[simp] theorem raise_font (e : Status) : (s.raise e).font = s.font := rfl
@[simp] theorem raise_curCol (e : Status) : (s.raise e).curCol = s.curCol := rfl
@[simp] theorem raise_curRow (e : Status) : (s.raise e).curRow = s.curRow := rfl
@[simp] theorem raise_config (e : Status) : (s.raise e).config = s.config := rfl
@[simp] theorem raise_surf (e : Status) : (s.raise e).surf = s.surf := rfl
@[simp] theorem raise_pal (e : Status) : (s.raise e).pal = s.pal := rfl
@[simp] theorem raise_vram (e : Status) : (s.raise e).vram = s.vram := rfl
@[simp] theorem raise_packetBuf (e : Status) : (s.raise e).packetBuf = s.packetBuf := rfl
@[simp] theorem raise_port (e : Status) : (s.raise e).port = s.port := rfl
@[simp] theorem raise_completions (e : Status) : (s.raise e).completions = s.completions ++ [⟨e, []⟩] := rfl
@[simp] theorem raise_portLog (e : Status) : (s.raise e).portLog = s.portLog := rfl
@[simp] theorem raise_acquisitions (e : Status) : (s.raise e).acquisitions = s.acquisitions := rfl
@[simp] theorem raise_vramEpoch (e : Status) : (s.raise e).vramEpoch = s.vramEpoch := rfl
@[simp] theorem raise_modeRec (e : Status) : (s.raise e).modeRec = s.modeRec := rfl
@[simp] theorem raise_W (e : Status) : (s.raise e).W = s.W := rfl
@[simp] theorem raise_H (e : Status) : (s.raise e).H = s.H := rfl
@[simp] theorem raise_NC (e : Status) : (s.raise e).NC = s.NC := rfl
@[simp] theorem raise_fontRec (e : Status) : (s.raise e).fontRec = s.fontRec := rfl
@[simp] theorem raise_GW (e : Status) : (s.raise e).GW = s.GW := rfl
@[simp] theorem raise_GH (e : Status) : (s.raise e).GH = s.GH := rfl
@[simp] theorem raise_gridCols (e : Status) : (s.raise e).gridCols = s.gridCols := rfl
@[simp] theorem raise_gridRows (e : Status) : (s.raise e).gridRows = s.gridRows := rfl
@[simp] theorem raise_vramRead (e : Status) (i : Nat) : (s.raise e).vramRead i = s.vramRead i := rfl

/-! ### vramWriteRun -/
@[simp] theorem vramWriteRun_mode (a : Nat) (bs : List Byte) : (s.vramWriteRun a bs).mode = s.mode := rfl
@[simp] theorem vramWriteRun_font (a : Nat) (bs : List Byte) : (s.vramWriteRun a bs).font = s.font := rfl
@[simp] theorem vramWriteRun_curCol (a : Nat) (bs : List Byte) : (s.vramWriteRun a bs).curCol = s.curCol := rfl
@[simp] theorem vramWriteRun_curRow (a : Nat) (bs : List Byte) : (s.vramWriteRun a bs).curRow = s.curRow := rfl
@[simp] theorem vramWriteRun_config (a : Nat) (bs : List Byte) : (s.vramWriteRun a bs).config = s.config := rfl
@[simp] theorem vramWriteRun_surf (a : Nat) (bs : List Byte) : (s.vramWriteRun a bs).surf = s.surf := rfl
@[simp] theorem vramWriteRun_pal (a : Nat) (bs : List Byte) : (s.vramWriteRun a bs).pal = s.pal := rfl
@[simp] theorem vramWriteRun_vram (a : Nat) (bs : List Byte) : (s.vramWriteRun a bs).vram = Memory.writeRun a bs s.vram := rfl
@[simp] theorem vramWriteRun_packetBuf (a : Nat) (bs : List Byte) : (s.vramWriteRun a bs).packetBuf = s.packetBuf := rfl
@[simp] theorem vramWriteRun_port (a : Nat) (bs : List Byte) : (s.vramWriteRun a bs).port = s.port := rfl
@[simp] theorem vramWriteRun_completions (a : Nat) (bs : List Byte) : (s.vramWriteRun a bs).completions = s.completions := rfl
@[simp] theorem vramWriteRun_portLog (a : Nat) (bs : List Byte) : (s.vramWriteRun a bs).portLog = s.portLog := rfl
@[simp] theorem vramWriteRun_acquisitions (a : Nat) (bs : List Byte) : (s.vramWriteRun a bs).acquisitions = s.acquisitions := rfl
@[simp] theorem vramWriteRun_vramEpoch (a : Nat) (bs : List Byte) : (s.vramWriteRun a bs).vramEpoch = s.vramEpoch := rfl
@[simp] theorem vramWriteRun_modeRec (a : Nat) (bs : List Byte) : (s.vramWriteRun a bs).modeRec = s.modeRec := rfl
@[simp] theorem vramWriteRun_W (a : Nat) (bs : List Byte) : (s.vramWriteRun a bs).W = s.W := rfl
@[simp] theorem vramWriteRun_H (a : Nat) (bs : List Byte) : (s.vramWriteRun a bs).H = s.H := rfl
@[simp] theorem vramWriteRun_NC (a : Nat) (bs : List Byte) : (s.vramWriteRun a bs).NC = s.NC := rfl
@[simp] theorem vramWriteRun_fontRec (a : Nat) (bs : List Byte) : (s.vramWriteRun a bs).fontRec = s.fontRec := rfl
@[simp] theorem vramWriteRun_GW (a : Nat) (bs : List Byte) : (s.vramWriteRun a bs).GW = s.GW := rfl
@[simp] theorem vramWriteRun_GH (a : Nat) (bs : List Byte) : (s.vramWriteRun a bs).GH = s.GH := rfl
@[simp] theorem vramWriteRun_gridCols (a : Nat) (bs : List Byte) : (s.vramWriteRun a bs).gridCols = s.gridCols := rfl
@[simp] theorem vramWriteRun_gridRows (a : Nat) (bs : List Byte) : (s.vramWriteRun a bs).gridRows = s.gridRows := rfl

/-! ### vramWrite -/
@[simp] theorem vramWrite_mode (a : Nat) (v : Byte) : (s.vramWrite a v).mode = s.mode := rfl
@[simp] theorem vramWrite_font (a : Nat) (v : Byte) : (s.vramWrite a v).font = s.font := rfl
@[simp] theorem vramWrite_curCol (a : Nat) (v : Byte) : (s.vramWrite a v).curCol = s.curCol := rfl
@[simp] theorem vramWrite_curRow (a : Nat) (v : Byte) : (s.vramWrite a v).curRow = s.curRow := rfl
@[simp] theorem vramWrite_config (a : Nat) (v : Byte) : (s.vramWrite a v).config = s.config := rfl
@[simp] theorem vramWrite_surf (a : Nat) (v : Byte) : (s.vramWrite a v).surf = s.surf := rfl
@[simp] theorem vramWrite_pal (a : Nat) (v : Byte) : (s.vramWrite a v).pal = s.pal := rfl
@[simp] theorem vramWrite_vram (a : Nat) (v : Byte) : (s.vramWrite a v).vram = Memory.writeRun a [v] s.vram := rfl
@[simp] theorem vramWrite_packetBuf (a : Nat) (v : Byte) : (s.vramWrite a v).packetBuf = s.packetBuf := rfl
@[simp] theorem vramWrite_port (a : Nat) (v : Byte) : (s.vramWrite a v).port = s.port := rfl
@[simp] theorem vramWrite_completions (a : Nat) (v : Byte) : (s.vramWrite a v).completions = s.completions := rfl
@[simp] theorem vramWrite_portLog (a : Nat) (v : Byte) : (s.vramWrite a v).portLog = s.portLog := rfl
@[simp] theorem vramWrite_acquisitions (a : Nat) (v : Byte) : (s.vramWrite a v).acquisitions = s.acquisitions := rfl
@[simp] theorem vramWrite_vramEpoch (a : Nat) (v : Byte) : (s.vramWrite a v).vramEpoch = s.vramEpoch := rfl
@[simp] theorem vramWrite_modeRec (a : Nat) (v : Byte) : (s.vramWrite a v).modeRec = s.modeRec := rfl
@[simp] theorem vramWrite_W (a : Nat) (v : Byte) : (s.vramWrite a v).W = s.W := rfl
@[simp] theorem vramWrite_H (a : Nat) (v : Byte) : (s.vramWrite a v).H = s.H := rfl
@[simp] theorem vramWrite_NC (a : Nat) (v : Byte) : (s.vramWrite a v).NC = s.NC := rfl
@[simp] theorem vramWrite_fontRec (a : Nat) (v : Byte) : (s.vramWrite a v).fontRec = s.fontRec := rfl
@[simp] theorem vramWrite_GW (a : Nat) (v : Byte) : (s.vramWrite a v).GW = s.GW := rfl
@[simp] theorem vramWrite_GH (a : Nat) (v : Byte) : (s.vramWrite a v).GH = s.GH := rfl
@[simp] theorem vramWrite_gridCols (a : Nat) (v : Byte) : (s.vramWrite a v).gridCols = s.gridCols := rfl
@[simp] theorem vramWrite_gridRows (a : Nat) (v : Byte) : (s.vramWrite a v).gridRows = s.gridRows := rfl

/-! ### setPal -/
@[simp] theorem setPal_mode (i : Byte) (c : Color) : (s.setPal i c).mode = s.mode := rfl
@[simp] theorem setPal_font (i : Byte) (c : Color) : (s.setPal i c).font = s.font := rfl
@[simp] theorem setPal_curCol (i : Byte) (c : Color) : (s.setPal i c).curCol = s.curCol := rfl
@[simp] theorem setPal_curRow (i : Byte) (c : Color) : (s.setPal i c).curRow = s.curRow := rfl
@[simp] theorem setPal_config (i : Byte) (c : Color) : (s.setPal i c).config = s.config := rfl
@[simp] theorem setPal_surf (i : Byte) (c : Color) : (s.setPal i c).surf = s.surf := rfl
@[simp] theorem setPal_pal (i : Byte) (c : Color) : (s.setPal i c).pal = s.pal.set i.toNat c := rfl
@[simp] theorem setPal_vram (i : Byte) (c : Color) : (s.setPal i c).vram = s.vram := rfl
@[simp] theorem setPal_packetBuf (i : Byte) (c : Color) : (s.setPal i c).packetBuf = s.packetBuf := rfl
@[simp] theorem setPal_port (i : Byte) (c : Color) : (s.setPal i c).port = s.port := rfl
@[simp] theorem setPal_completions (i : Byte) (c : Color) : (s.setPal i c).completions = s.completions := rfl
@[simp] theorem setPal_portLog (i : Byte) (c : Color) : (s.setPal i c).portLog = s.portLog := rfl
@[simp] theorem setPal_acquisitions (i : Byte) (c : Color) : (s.setPal i c).acquisitions = s.acquisitions := rfl
@[simp] theorem setPal_vramEpoch (i : Byte) (c : Color) : (s.setPal i c).vramEpoch = s.vramEpoch := rfl
@[simp] theorem setPal_modeRec (i : Byte) (c : Color) : (s.setPal i c).modeRec = s.modeRec := rfl
@[simp] theorem setPal_W (i : Byte) (c : Color) : (s.setPal i c).W = s.W := rfl
@[simp] theorem setPal_H (i : Byte) (c : Color) : (s.setPal i c).H = s.H := rfl
@[simp] theorem setPal_NC (i : Byte) (c : Color) : (s.setPal i c).NC = s.NC := rfl
@[simp] theorem setPal_fontRec (i : Byte) (c : Color) : (s.setPal i c).fontRec = s.fontRec := rfl
@[simp] theorem setPal_GW (i : Byte) (c : Color) : (s.setPal i c).GW = s.GW := rfl
@[simp] theorem setPal_GH (i : Byte) (c : Color) : (s.setPal i c).GH = s.GH := rfl
@[simp] theorem setPal_gridCols (i : Byte) (c : Color) : (s.setPal i c).gridCols = s.gridCols := rfl
@[simp] theorem setPal_gridRows (i : Byte) (c : Color) : (s.setPal i c).gridRows = s.gridRows := rfl
@[simp] theorem setPal_vramRead (i : Byte) (c : Color) (a : Nat) : (s.setPal i c).vramRead a = s.vramRead a := rfl

/-! ### loadPal -/
@[simp] theorem loadPal_mode (cs : List Color) : (s.loadPal cs).mode = s.mode := rfl
@[simp] theorem loadPal_font (cs : List Color) : (s.loadPal cs).font = s.font := rfl
@[simp] theorem loadPal_curCol (cs : List Color) : (s.loadPal cs).curCol = s.curCol := rfl
@[simp] theorem loadPal_curRow (cs : List Color) : (s.loadPal cs).curRow = s.curRow := rfl
@[simp] theorem loadPal_config (cs : List Color) : (s.loadPal cs).config = s.config := rfl
@[simp] theorem loadPal_surf (cs : List Color) : (s.loadPal cs).surf = s.surf := rfl
@[simp] theorem loadPal_pal (cs : List Color) : (s.loadPal cs).pal = cs ++ s.pal.drop cs.length := rfl
@[simp] theorem loadPal_vram (cs : List Color) : (s.loadPal cs).vram = s.vram := rfl
@[simp] theorem loadPal_packetBuf (cs : List Color) : (s.loadPal cs).packetBuf = s.packetBuf := rfl
@[simp] theorem loadPal_port (cs : List Color) : (s.loadPal cs).port = s.port := rfl
@[simp] theorem loadPal_completions (cs : List Color) : (s.loadPal cs).completions = s.completions := rfl
@[simp] theorem loadPal_portLog (cs : List Color) : (s.loadPal cs).portLog = s.portLog := rfl
@[simp] theorem loadPal_acquisitions (cs : List Color) : (s.loadPal cs).acquisitions = s.acquisitions := rfl
@[simp] theorem loadPal_vramEpoch (cs : List Color) : (s.loadPal cs).vramEpoch = s.vramEpoch := rfl
@[simp] theorem loadPal_modeRec (cs : List Color) : (s.loadPal cs).modeRec = s.modeRec := rfl
@[simp] theorem loadPal_W (cs : List Color) : (s.loadPal cs).W = s.W := rfl
@[simp] theorem loadPal_H (cs : List Color) : (s.loadPal cs).H = s.H := rfl
@[simp] theorem loadPal_NC (cs : List Color) : (s.loadPal cs).NC = s.NC := rfl
@[simp] theorem loadPal_fontRec (cs : List Color) : (s.loadPal cs).fontRec = s.fontRec := rfl
@[simp] theorem loadPal_GW (cs : List Color) : (s.loadPal cs).GW = s.GW := rfl
@[simp] theorem loadPal_GH (cs : List Color) : (s.loadPal cs).GH = s.GH := rfl
@[simp] theorem loadPal_gridCols (cs : List Color) : (s.loadPal cs).gridCols = s.gridCols := rfl
@[simp] theorem loadPal_gridRows (cs : List Color) : (s.loadPal cs).gridRows = s.gridRows := rfl
@[simp] theorem loadPal_vramRead (cs : List Color) (i : Nat) : (s.loadPal cs).vramRead i = s.vramRead i := rfl

/-! ### restorePal -/
@[simp] theorem restorePal_mode : s.restorePal.mode = s.mode := rfl
@[simp] theorem restorePal_font : s.restorePal.font = s.font := rfl
@[simp] theorem restorePal_curCol : s.restorePal.curCol = s.curCol := rfl
@[simp] theorem restorePal_curRow : s.restorePal.curRow = s.curRow := rfl
@[simp] theorem restorePal_config : s.restorePal.config = s.config := rfl
@[simp] theorem restorePal_surf : s.restorePal.surf = s.surf := rfl
@[simp] theorem restorePal_pal : s.restorePal.pal = s.config.defaultPalette s.NC := rfl
@[simp] theorem restorePal_vram : s.restorePal.vram = s.vram := rfl
@[simp] theorem restorePal_packetBuf : s.restorePal.packetBuf = s.packetBuf := rfl
@[simp] theorem restorePal_port : s.restorePal.port = s.port := rfl
@[simp] theorem restorePal_completions : s.restorePal.completions = s.completions := rfl
@[simp] theorem restorePal_portLog : s.restorePal.portLog = s.portLog := rfl
@[simp] theorem restorePal_acquisitions : s.restorePal.acquisitions = s.acquisitions := rfl
@[simp] theorem restorePal_vramEpoch : s.restorePal.vramEpoch = s.vramEpoch := rfl
@[simp] theorem restorePal_modeRec : s.restorePal.modeRec = s.modeRec := rfl
@[simp] theorem restorePal_W : s.restorePal.W = s.W := rfl
@[simp] theorem restorePal_H : s.restorePal.H = s.H := rfl
@[simp] theorem restorePal_NC : s.restorePal.NC = s.NC := rfl
@[simp] theorem restorePal_fontRec : s.restorePal.fontRec = s.fontRec := rfl
@[simp] theorem restorePal_GW : s.restorePal.GW = s.GW := rfl
@[simp] theorem restorePal_GH : s.restorePal.GH = s.GH := rfl
@[simp] theorem restorePal_gridCols : s.restorePal.gridCols = s.gridCols := rfl
@[simp] theorem restorePal_gridRows : s.restorePal.gridRows = s.gridRows := rfl
@[simp] theorem restorePal_vramRead (i : Nat) : s.restorePal.vramRead i = s.vramRead i := rfl

/-! ### setCursor -/
@[simp] theorem setCursor_mode (col row : Nat) : (s.setCursor col row).mode = s.mode := rfl
@[simp] theorem setCursor_font (col row : Nat) : (s.setCursor col row).font = s.font := rfl
@[simp] theorem setCursor_curCol (col row : Nat) : (s.setCursor col row).curCol = BitVec.ofNat 16 col := rfl
@[simp] theorem setCursor_curRow (col row : Nat) : (s.setCursor col row).curRow = BitVec.ofNat 16 row := rfl
@[simp] theorem setCursor_config (col row : Nat) : (s.setCursor col row).config = s.config := rfl
@[simp] theorem setCursor_surf (col row : Nat) : (s.setCursor col row).surf = s.surf := rfl
@[simp] theorem setCursor_pal (col row : Nat) : (s.setCursor col row).pal = s.pal := rfl
@[simp] theorem setCursor_vram (col row : Nat) : (s.setCursor col row).vram = s.vram := rfl
@[simp] theorem setCursor_packetBuf (col row : Nat) : (s.setCursor col row).packetBuf = s.packetBuf := rfl
@[simp] theorem setCursor_port (col row : Nat) : (s.setCursor col row).port = s.port := rfl
@[simp] theorem setCursor_completions (col row : Nat) : (s.setCursor col row).completions = s.completions := rfl
@[simp] theorem setCursor_portLog (col row : Nat) : (s.setCursor col row).portLog = s.portLog := rfl
@[simp] theorem setCursor_acquisitions (col row : Nat) : (s.setCursor col row).acquisitions = s.acquisitions := rfl
@[simp] theorem setCursor_vramEpoch (col row : Nat) : (s.setCursor col row).vramEpoch = s.vramEpoch := rfl
@[simp] theorem setCursor_modeRec (col row : Nat) : (s.setCursor col row).modeRec = s.modeRec := rfl
@[simp] theorem setCursor_W (col row : Nat) : (s.setCursor col row).W = s.W := rfl
@[simp] theorem setCursor_H (col row : Nat) : (s.setCursor col row).H = s.H := rfl
@[simp] theorem setCursor_NC (col row : Nat) : (s.setCursor col row).NC = s.NC := rfl
@[simp] theorem setCursor_fontRec (col row : Nat) : (s.setCursor col row).fontRec = s.fontRec := rfl
@[simp] theorem setCursor_GW (col row : Nat) : (s.setCursor col row).GW = s.GW := rfl
@[simp] theorem setCursor_GH (col row : Nat) : (s.setCursor col row).GH = s.GH := rfl
@[simp] theorem setCursor_gridCols (col row : Nat) : (s.setCursor col row).gridCols = s.gridCols := rfl
@[simp] theorem setCursor_gridRows (col row : Nat) : (s.setCursor col row).gridRows = s.gridRows := rfl
@[simp] theorem setCursor_vramRead (col row : Nat) (i : Nat) : (s.setCursor col row).vramRead i = s.vramRead i := rfl

/-! ### emit -/
@[simp] theorem emit_mode (e : PortEvent) : (s.emit e).mode = s.mode := rfl
@[simp] theorem emit_font (e : PortEvent) : (s.emit e).font = s.font := rfl
@[simp] theorem emit_curCol (e : PortEvent) : (s.emit e).curCol = s.curCol := rfl
@[simp] theorem emit_curRow (e : PortEvent) : (s.emit e).curRow = s.curRow := rfl
@[simp] theorem emit_config (e : PortEvent) : (s.emit e).config = s.config := rfl
@[simp] theorem emit_surf (e : PortEvent) : (s.emit e).surf = s.surf := rfl
@[simp] theorem emit_pal (e : PortEvent) : (s.emit e).pal = s.pal := rfl
@[simp] theorem emit_vram (e : PortEvent) : (s.emit e).vram = s.vram := rfl
@[simp] theorem emit_packetBuf (e : PortEvent) : (s.emit e).packetBuf = s.packetBuf := rfl
@[simp] theorem emit_port (e : PortEvent) : (s.emit e).port = s.port := rfl
@[simp] theorem emit_completions (e : PortEvent) : (s.emit e).completions = s.completions := rfl
@[simp] theorem emit_portLog (e : PortEvent) : (s.emit e).portLog = s.portLog ++ [e] := rfl
@[simp] theorem emit_acquisitions (e : PortEvent) : (s.emit e).acquisitions = s.acquisitions := rfl
@[simp] theorem emit_vramEpoch (e : PortEvent) : (s.emit e).vramEpoch = s.vramEpoch := rfl
@[simp] theorem emit_modeRec (e : PortEvent) : (s.emit e).modeRec = s.modeRec := rfl
@[simp] theorem emit_W (e : PortEvent) : (s.emit e).W = s.W := rfl
@[simp] theorem emit_H (e : PortEvent) : (s.emit e).H = s.H := rfl
@[simp] theorem emit_NC (e : PortEvent) : (s.emit e).NC = s.NC := rfl
@[simp] theorem emit_fontRec (e : PortEvent) : (s.emit e).fontRec = s.fontRec := rfl
@[simp] theorem emit_GW (e : PortEvent) : (s.emit e).GW = s.GW := rfl
@[simp] theorem emit_GH (e : PortEvent) : (s.emit e).GH = s.GH := rfl
@[simp] theorem emit_gridCols (e : PortEvent) : (s.emit e).gridCols = s.gridCols := rfl
@[simp] theorem emit_gridRows (e : PortEvent) : (s.emit e).gridRows = s.gridRows := rfl
@[simp] theorem emit_vramRead (e : PortEvent) (i : Nat) : (s.emit e).vramRead i = s.vramRead i := rfl

/-! ### enterMode -/
@[simp] theorem enterMode_mode (m : Id24) (M : ModeRecord) : (s.enterMode m M).mode = m := rfl
@[simp] theorem enterMode_font (m : Id24) (M : ModeRecord) : (s.enterMode m M).font = M.FONT0 := rfl
@[simp] theorem enterMode_curCol (m : Id24) (M : ModeRecord) : (s.enterMode m M).curCol = 0 := rfl
@[simp] theorem enterMode_curRow (m : Id24) (M : ModeRecord) : (s.enterMode m M).curRow = 0 := rfl
@[simp] theorem enterMode_config (m : Id24) (M : ModeRecord) : (s.enterMode m M).config = s.config := rfl
@[simp] theorem enterMode_surf (m : Id24) (M : ModeRecord) : (s.enterMode m M).surf = s.surf := rfl
@[simp] theorem enterMode_pal (m : Id24) (M : ModeRecord) : (s.enterMode m M).pal = s.config.defaultPalette M.NC := rfl
@[simp] theorem enterMode_vram (m : Id24) (M : ModeRecord) : (s.enterMode m M).vram = [] := rfl
@[simp] theorem enterMode_packetBuf (m : Id24) (M : ModeRecord) : (s.enterMode m M).packetBuf = s.packetBuf := rfl
@[simp] theorem enterMode_port (m : Id24) (M : ModeRecord) : (s.enterMode m M).port = s.port := rfl
@[simp] theorem enterMode_completions (m : Id24) (M : ModeRecord) : (s.enterMode m M).completions = s.completions := rfl
@[simp] theorem enterMode_portLog (m : Id24) (M : ModeRecord) : (s.enterMode m M).portLog = s.portLog := rfl
@[simp] theorem enterMode_acquisitions (m : Id24) (M : ModeRecord) : (s.enterMode m M).acquisitions = s.acquisitions := rfl
@[simp] theorem enterMode_vramEpoch (m : Id24) (M : ModeRecord) : (s.enterMode m M).vramEpoch = s.vramEpoch + 1 := rfl

/-! ### accept -/
@[simp] theorem accept_mode (n : Nat) : (s.accept n).mode = s.mode := rfl
@[simp] theorem accept_font (n : Nat) : (s.accept n).font = s.font := rfl
@[simp] theorem accept_curCol (n : Nat) : (s.accept n).curCol = s.curCol := rfl
@[simp] theorem accept_curRow (n : Nat) : (s.accept n).curRow = s.curRow := rfl
@[simp] theorem accept_config (n : Nat) : (s.accept n).config = s.config := rfl
@[simp] theorem accept_surf (n : Nat) : (s.accept n).surf = s.surf := rfl
@[simp] theorem accept_pal (n : Nat) : (s.accept n).pal = s.pal := rfl
@[simp] theorem accept_vram (n : Nat) : (s.accept n).vram = s.vram := rfl
@[simp] theorem accept_packetBuf (n : Nat) : (s.accept n).packetBuf = [] := rfl
@[simp] theorem accept_port (n : Nat) : (s.accept n).port = s.pending.drop n := rfl
@[simp] theorem accept_completions (n : Nat) : (s.accept n).completions = s.completions := rfl
@[simp] theorem accept_portLog (n : Nat) : (s.accept n).portLog = s.portLog := rfl
@[simp] theorem accept_acquisitions (n : Nat) : (s.accept n).acquisitions = s.acquisitions := rfl
@[simp] theorem accept_vramEpoch (n : Nat) : (s.accept n).vramEpoch = s.vramEpoch := rfl
@[simp] theorem accept_modeRec (n : Nat) : (s.accept n).modeRec = s.modeRec := rfl
@[simp] theorem accept_W (n : Nat) : (s.accept n).W = s.W := rfl
@[simp] theorem accept_H (n : Nat) : (s.accept n).H = s.H := rfl
@[simp] theorem accept_NC (n : Nat) : (s.accept n).NC = s.NC := rfl
@[simp] theorem accept_fontRec (n : Nat) : (s.accept n).fontRec = s.fontRec := rfl
@[simp] theorem accept_GW (n : Nat) : (s.accept n).GW = s.GW := rfl
@[simp] theorem accept_GH (n : Nat) : (s.accept n).GH = s.GH := rfl
@[simp] theorem accept_gridCols (n : Nat) : (s.accept n).gridCols = s.gridCols := rfl
@[simp] theorem accept_gridRows (n : Nat) : (s.accept n).gridRows = s.gridRows := rfl
@[simp] theorem accept_vramRead (n : Nat) (i : Nat) : (s.accept n).vramRead i = s.vramRead i := rfl

/-! ### hold -/
@[simp] theorem hold_mode : s.hold.mode = s.mode := rfl
@[simp] theorem hold_font : s.hold.font = s.font := rfl
@[simp] theorem hold_curCol : s.hold.curCol = s.curCol := rfl
@[simp] theorem hold_curRow : s.hold.curRow = s.curRow := rfl
@[simp] theorem hold_config : s.hold.config = s.config := rfl
@[simp] theorem hold_surf : s.hold.surf = s.surf := rfl
@[simp] theorem hold_pal : s.hold.pal = s.pal := rfl
@[simp] theorem hold_vram : s.hold.vram = s.vram := rfl
@[simp] theorem hold_packetBuf : s.hold.packetBuf = s.pending := rfl
@[simp] theorem hold_port : s.hold.port = [] := rfl
@[simp] theorem hold_completions : s.hold.completions = s.completions := rfl
@[simp] theorem hold_portLog : s.hold.portLog = s.portLog := rfl
@[simp] theorem hold_acquisitions : s.hold.acquisitions = s.acquisitions := rfl
@[simp] theorem hold_vramEpoch : s.hold.vramEpoch = s.vramEpoch := rfl
@[simp] theorem hold_modeRec : s.hold.modeRec = s.modeRec := rfl
@[simp] theorem hold_W : s.hold.W = s.W := rfl
@[simp] theorem hold_H : s.hold.H = s.H := rfl
@[simp] theorem hold_NC : s.hold.NC = s.NC := rfl
@[simp] theorem hold_fontRec : s.hold.fontRec = s.fontRec := rfl
@[simp] theorem hold_GW : s.hold.GW = s.GW := rfl
@[simp] theorem hold_GH : s.hold.GH = s.GH := rfl
@[simp] theorem hold_gridCols : s.hold.gridCols = s.gridCols := rfl
@[simp] theorem hold_gridRows : s.hold.gridRows = s.gridRows := rfl
@[simp] theorem hold_vramRead (i : Nat) : s.hold.vramRead i = s.vramRead i := rfl

/-! ### hostSend -/
@[simp] theorem hostSend_mode (ws : List Word) : (s.hostSend ws).mode = s.mode := rfl
@[simp] theorem hostSend_font (ws : List Word) : (s.hostSend ws).font = s.font := rfl
@[simp] theorem hostSend_curCol (ws : List Word) : (s.hostSend ws).curCol = s.curCol := rfl
@[simp] theorem hostSend_curRow (ws : List Word) : (s.hostSend ws).curRow = s.curRow := rfl
@[simp] theorem hostSend_config (ws : List Word) : (s.hostSend ws).config = s.config := rfl
@[simp] theorem hostSend_surf (ws : List Word) : (s.hostSend ws).surf = s.surf := rfl
@[simp] theorem hostSend_pal (ws : List Word) : (s.hostSend ws).pal = s.pal := rfl
@[simp] theorem hostSend_vram (ws : List Word) : (s.hostSend ws).vram = s.vram := rfl
@[simp] theorem hostSend_packetBuf (ws : List Word) : (s.hostSend ws).packetBuf = s.packetBuf := rfl
@[simp] theorem hostSend_port (ws : List Word) : (s.hostSend ws).port = s.port ++ ws := rfl
@[simp] theorem hostSend_completions (ws : List Word) : (s.hostSend ws).completions = s.completions := rfl
@[simp] theorem hostSend_portLog (ws : List Word) : (s.hostSend ws).portLog = s.portLog := rfl
@[simp] theorem hostSend_acquisitions (ws : List Word) : (s.hostSend ws).acquisitions = s.acquisitions := rfl
@[simp] theorem hostSend_vramEpoch (ws : List Word) : (s.hostSend ws).vramEpoch = s.vramEpoch := rfl
@[simp] theorem hostSend_modeRec (ws : List Word) : (s.hostSend ws).modeRec = s.modeRec := rfl
@[simp] theorem hostSend_W (ws : List Word) : (s.hostSend ws).W = s.W := rfl
@[simp] theorem hostSend_H (ws : List Word) : (s.hostSend ws).H = s.H := rfl
@[simp] theorem hostSend_NC (ws : List Word) : (s.hostSend ws).NC = s.NC := rfl
@[simp] theorem hostSend_fontRec (ws : List Word) : (s.hostSend ws).fontRec = s.fontRec := rfl
@[simp] theorem hostSend_GW (ws : List Word) : (s.hostSend ws).GW = s.GW := rfl
@[simp] theorem hostSend_GH (ws : List Word) : (s.hostSend ws).GH = s.GH := rfl
@[simp] theorem hostSend_gridCols (ws : List Word) : (s.hostSend ws).gridCols = s.gridCols := rfl
@[simp] theorem hostSend_gridRows (ws : List Word) : (s.hostSend ws).gridRows = s.gridRows := rfl
@[simp] theorem hostSend_vramRead (ws : List Word) (i : Nat) : (s.hostSend ws).vramRead i = s.vramRead i := rfl
/-! ### the surface hand-over and the frame log -/

@[simp] theorem handOver_config (M : ModeRecord) (g : Bool) : (s.handOver M g).config = s.config := by
  cases h : s.surf <;> simp [handOver, emit, h]

@[simp] theorem switchMode_config (m : Id24) (M : ModeRecord) (g : Bool) : (s.switchMode m M g).config = s.config := by
  cases g <;> cases h : s.surf <;> simp [switchMode, handOver, enterMode, emit, respond, raise, complete, h]

@[simp] theorem hostReset_config : s.hostReset.config = s.config := rfl

theorem handOver_eq (M : ModeRecord) (g : Bool) :
    s.handOver M g = { s with
      surf := g
      portLog := s.portLog ++ (if s.surf then [.release] else []) ++ [.acquire M.W M.H]
      acquisitions := s.acquisitions + 1 } := by
  cases h : s.surf <;> simp [handOver, emit, h]

@[simp] theorem pending_reset : State.reset.pending = [] := rfl

@[simp] theorem hostSend_pending (ws : List Word) : (s.hostSend ws).pending = s.pending ++ ws := by
  simp [pending]

theorem hold_pending : s.hold.pending = s.pending := by simp [pending]

/-- A hold with nothing on the port changes nothing. -/
theorem hold_of_port_nil (h : s.port = []) : s.hold = s := by
  cases s
  simp_all [hold, pending]

theorem frameLog_append (e : PortEvent) :
    (s.emit e).frameLog = s.frameLog ++
      (match e with
        | .present f => [f]
        | .release | .acquire _ _ => []) := by
  cases e <;> simp [frameLog, List.filterMap_append]

@[simp] theorem frameLog_of_portLog (t : State) (h : t.portLog = s.portLog) : t.frameLog = s.frameLog := by
  simp [frameLog, h]

/-- The cursor after `Advance()`, the three cases of R128. -/
theorem advance_cases :
    (s.curCol.toNat + 1 < s.gridCols ∧ s.advance = s.setCursor (s.curCol.toNat + 1) s.curRow.toNat) ∨
      (¬ s.curCol.toNat + 1 < s.gridCols ∧ s.curRow.toNat + 1 < s.gridRows ∧
        s.advance = s.setCursor 0 (s.curRow.toNat + 1)) ∨
      (¬ s.curCol.toNat + 1 < s.gridCols ∧ ¬ s.curRow.toNat + 1 < s.gridRows ∧ s.advance = s.setCursor 0 0) := by
  unfold advance
  split
  · exact .inl ⟨‹_›, rfl⟩
  · split
    · exact .inr (.inl ⟨‹_›, ‹_›, rfl⟩)
    · exact .inr (.inr ⟨‹_›, ‹_›, rfl⟩)

/-- SET_MODE to a key, granted or not: the two states of R107 and R109. -/
theorem switchMode_eq (m : Id24) (M : ModeRecord) (g : Bool) :
    s.switchMode m M g =
      if g then ((s.handOver M true).enterMode m M).respond []
      else (s.handOver M false).raise .resourceCreationFailed := by
  cases g <;> rfl

end State
end Machine
end Sys2Proof
end

