-- ==== Sys2Proof/Laws/Blit.lean ====
section
/-! SUPPORT. What the sprite blit engine does, said once: it changes VRAM alone, a cell of the intersection gets its sprite
pixel, every other cell stays, and the canonical form, the bounds and the index bound of VRAM are kept. -/

namespace Sys2Proof
namespace Machine

section Rows

variable (x y : Int) (w : Nat) (pix : List Byte) (x0 count : Nat)

/-- The part of a sprite's row that `spriteRow` writes. -/
abbrev rowSlice (yy : Nat) : List Byte := (pix.drop ((x0 - x).toNat + w * (yy - y).toNat)).take count

theorem rowSlice_length_le (yy : Nat) : (rowSlice x y w pix x0 count yy).length ≤ count := by
  simp

theorem spriteRow_eq (s : State) (yy : Nat) :
    spriteRow x y w pix x0 count s yy = s.vramWriteRun (x0 + s.W * yy) (rowSlice x y w pix x0 count yy) := rfl

/-- A row write touches VRAM alone. -/
theorem spriteRow_only_vram (s : State) (yy : Nat) :
    spriteRow x y w pix x0 count s yy = { s with vram := (spriteRow x y w pix x0 count s yy).vram } := rfl

theorem rows_only_vram (ys : List Nat) (s : State) :
    ys.foldl (spriteRow x y w pix x0 count) s =
      { s with vram := (ys.foldl (spriteRow x y w pix x0 count) s).vram } := by
  induction ys generalizing s with
  | nil => rfl
  | cons yy ys ih =>
    rw [List.foldl_cons, ih]
    rfl

/-- A cell lies in the run of row `yy'` exactly when it is a cell of that row, between the run's columns. -/
theorem in_row_iff {W xx yy yy' len : Nat} (hx : xx < W) (hlen : x0 + len ≤ W) :
    (x0 + W * yy' ≤ xx + W * yy ∧ xx + W * yy < x0 + W * yy' + len) ↔ yy = yy' ∧ x0 ≤ xx ∧ xx < x0 + len := by
  constructor
  · rintro ⟨h1, h2⟩
    have : yy = yy' := by
      rcases Nat.lt_trichotomy yy yy' with h | h | h
      · have := Nat.mul_le_mul_left W (show yy + 1 ≤ yy' by omega)
        rw [Nat.mul_add] at this
        omega
      · exact h
      · have := Nat.mul_le_mul_left W (show yy' + 1 ≤ yy by omega)
        rw [Nat.mul_add] at this
        omega
    subst this
    omega
  · rintro ⟨rfl, h⟩
    omega

theorem spriteRow_read {s : State} {xx yy yy' : Nat} (hx : xx < s.W) (hc : x0 + count ≤ s.W) :
    (spriteRow x y w pix x0 count s yy').vramRead (xx + s.W * yy) =
      if yy = yy' ∧ x0 ≤ xx ∧ xx < x0 + (rowSlice x y w pix x0 count yy').length then
        (rowSlice x y w pix x0 count yy').getD (xx - x0) 0
      else s.vramRead (xx + s.W * yy) := by
  have hl := rowSlice_length_le x y w pix x0 count yy'
  rw [spriteRow_eq, State.vramRead_vramWriteRun]
  simp only [in_row_iff x0 hx (show x0 + (rowSlice x y w pix x0 count yy').length ≤ s.W by omega)]
  split
  · next h =>
    obtain ⟨rfl, _⟩ := h
    rw [show xx + s.W * yy - (x0 + s.W * yy) = xx - x0 by omega]
  · rfl

theorem rows_read (n : Nat) {s : State} {xx yy r0 : Nat} (hx : xx < s.W) (hc : x0 + count ≤ s.W) :
    ((List.range' r0 n).foldl (spriteRow x y w pix x0 count) s).vramRead (xx + s.W * yy) =
      if (r0 ≤ yy ∧ yy < r0 + n) ∧ x0 ≤ xx ∧ xx < x0 + (rowSlice x y w pix x0 count yy).length then
        (rowSlice x y w pix x0 count yy).getD (xx - x0) 0
      else s.vramRead (xx + s.W * yy) := by
  induction n generalizing s r0 with
  | zero => simp [show ¬ (r0 ≤ yy ∧ yy < r0) by omega]
  | succ n ih =>
    rw [List.range'_succ, List.foldl_cons]
    have h := ih (s := spriteRow x y w pix x0 count s r0) (r0 := r0 + 1) hx hc
    have hW : (spriteRow x y w pix x0 count s r0).W = s.W := rfl
    rw [hW] at h
    rw [h, spriteRow_read x y w pix x0 count hx hc]
    by_cases h1 : yy = r0
    · subst h1
      simp
    · by_cases h2 : (r0 + 1 ≤ yy ∧ yy < r0 + 1 + n)
      · simp only [h1, h2, show r0 ≤ yy ∧ yy < r0 + (n + 1) by omega, false_and, if_false, true_and, and_self]
      · rw [if_neg (fun h => h2 h.1), if_neg (fun h => h1 h.1), if_neg (fun h => by omega)]

/-- A cell of the memory after the rows is one of the memory before, or holds a sprite pixel within the rows' columns. -/
theorem mem_rows (n : Nat) {s : State} {r0 : Nat} {c : Host.Cell}
    (h : c ∈ ((List.range' r0 n).foldl (spriteRow x y w pix x0 count) s).vram) :
    c ∈ s.vram ∨ (c.2 ∈ pix ∧ ∃ yy, (r0 ≤ yy ∧ yy < r0 + n) ∧ c.1 < x0 + count + s.W * yy) := by
  induction n generalizing s r0 with
  | zero => exact .inl h
  | succ n ih =>
    rw [List.range'_succ, List.foldl_cons] at h
    rcases ih h with h | ⟨hp, yy, hyy, hc⟩
    · rcases (Memory.mem_writeRun _ _ _ _).1 h with h | ⟨h1, h2⟩ | h
      · exact .inl h.1
      · right
        have hm := List.mem_of_getElem? h2
        have hl := (List.getElem?_eq_some_iff.1 h2).1
        have hle : _ ≤ count := rowSlice_length_le x y w pix x0 count r0
        have ha : s.addr x0 r0 = x0 + s.W * r0 := rfl
        refine ⟨List.mem_of_mem_drop (List.mem_of_mem_take hm), r0, by omega, ?_⟩
        unfold rowSlice at hle
        omega
      · exact .inl h.1
    · exact .inr ⟨hp, yy, by omega, hc⟩

theorem wf_rows (ys : List Nat) {s : State} (h : Memory.wf s.vram) :
    Memory.wf (ys.foldl (spriteRow x y w pix x0 count) s).vram := by
  induction ys generalizing s with
  | nil => exact h
  | cons yy ys ih => exact ih (Memory.wf_writeRun _ _ _ h)

end Rows

/-- `clipRange` is the intersection: a position is in it exactly when it is in both ranges (R122). -/
theorem clipRange_spec (p : Int) (n limit : Nat) :
    (clipRange p n limit).1 + (clipRange p n limit).2 ≤ limit ∨ (clipRange p n limit).2 = 0 := by
  unfold clipRange
  dsimp only
  omega

theorem mem_clipRange (p : Int) (n limit q : Nat) (hq : q < limit) :
    ((clipRange p n limit).1 ≤ q ∧ q < (clipRange p n limit).1 + (clipRange p n limit).2) ↔
      (p ≤ q ∧ (q : Int) < p + n) := by
  unfold clipRange
  dsimp only
  omega

/-- The blit touches VRAM alone (R123). -/
theorem spriteBlit_only_vram (x y : Int) (w h : Nat) (pix : List Byte) (s : State) :
    spriteBlit x y w h pix s = { s with vram := (spriteBlit x y w h pix s).vram } := by
  unfold spriteBlit
  dsimp only
  split
  · rfl
  · rw [rows_only_vram]

/-- Clipping correctness, cell by cell (R123). -/
theorem spriteBlit_read {x y : Int} {w h : Nat} {pix : List Byte} {s : State} (hp : pix.length = w * h)
    {xx yy : Nat} (hx : xx < s.W) (hy : yy < s.H) :
    some ((spriteBlit x y w h pix s).vramRead (xx + s.W * yy)) =
      if (x ≤ xx ∧ (xx : Int) < x + w) ∧ (y ≤ yy ∧ (yy : Int) < y + h) then
        pix[((xx : Int) - x).toNat + w * ((yy : Int) - y).toNat]?
      else some (s.vramRead (xx + s.W * yy)) := by
  have hcol := mem_clipRange x w s.W xx hx
  have hrow := mem_clipRange y h s.H yy hy
  unfold spriteBlit
  dsimp only
  by_cases h0 : (clipRange x w s.W).2 = 0
  · rw [if_pos h0, if_neg]
    rintro ⟨h1, -⟩
    have := hcol.2 h1
    omega
  · have hc : (clipRange x w s.W).1 + (clipRange x w s.W).2 ≤ s.W := by
      rcases clipRange_spec x w s.W with h | h
      · exact h
      · exact absurd h h0
    rw [if_neg h0, rows_read x y w pix _ _ _ hx hc]
    by_cases hin : (x ≤ xx ∧ (xx : Int) < x + w) ∧ (y ≤ yy ∧ (yy : Int) < y + h)
    · have h1 := hcol.2 hin.1
      have h2 := hrow.2 hin.2
      have hx0 : ((clipRange x w s.W).1 : Int) = max x 0 := by simp [clipRange]
      have hcnt : ((clipRange x w s.W).2 : Int) = min (x + w) s.W - max x 0 := by
        have : (clipRange x w s.W).2 = (min (x + w) s.W - max x 0).toNat := rfl
        omega
      have hj : ((yy : Int) - y).toNat < h := by omega
      have hmul : w * ((yy : Int) - y).toNat + w ≤ w * h := by
        have := Nat.mul_le_mul_left w (show ((yy : Int) - y).toNat + 1 ≤ h by omega)
        rw [Nat.mul_add] at this
        omega
      have hlen : (rowSlice x y w pix (clipRange x w s.W).1 (clipRange x w s.W).2 yy).length =
          (clipRange x w s.W).2 := by
        simp only [rowSlice, List.length_take, List.length_drop, hp]
        omega
      rw [if_pos ⟨h2, by omega, by rw [hlen]; omega⟩, if_pos hin]
      have hk : xx - (clipRange x w s.W).1 < (clipRange x w s.W).2 := by omega
      have hidx : (((clipRange x w s.W).1 : Int) - x).toNat + w * ((yy : Int) - y).toNat +
          (xx - (clipRange x w s.W).1) = ((xx : Int) - x).toNat + w * ((yy : Int) - y).toNat := by omega
      have hlt : ((xx : Int) - x).toNat + w * ((yy : Int) - y).toNat < pix.length := by omega
      simp only [rowSlice, List.getD, List.getElem?_take_of_lt hk, List.getElem?_drop, hidx,
        List.getElem?_eq_getElem hlt, Option.getD_some]
    · rw [if_neg hin, if_neg]
      rintro ⟨h2, h1, h1'⟩
      have hle := rowSlice_length_le x y w pix (clipRange x w s.W).1 (clipRange x w s.W).2 yy
      exact hin ⟨hcol.1 ⟨h1, by omega⟩, hrow.1 h2⟩

/-- The cells of the memory after a blit: those before, or sprite pixels inside the framebuffer (R31, R39). -/
theorem mem_spriteBlit {x y : Int} {w h : Nat} {pix : List Byte} {s : State} {c : Host.Cell}
    (hc : c ∈ (spriteBlit x y w h pix s).vram) : c ∈ s.vram ∨ (c.2 ∈ pix ∧ c.1 < s.W * s.H) := by
  unfold spriteBlit at hc
  dsimp only at hc
  split at hc
  · exact .inl hc
  · next h0 =>
    rcases mem_rows _ _ _ _ _ _ _ hc with h' | ⟨hp, yy, hyy, hlt⟩
    · exact .inl h'
    · refine .inr ⟨hp, ?_⟩
      have h1 : (clipRange x w s.W).1 + (clipRange x w s.W).2 ≤ s.W := by
        rcases clipRange_spec x w s.W with h | h
        · exact h
        · exact absurd h h0
      have h2 : yy < s.H := by
        rcases clipRange_spec y h s.H with h' | h' <;> omega
      have := Nat.mul_le_mul_left s.W (show yy + 1 ≤ s.H by omega)
      rw [Nat.mul_add] at this
      omega

/-- A blit leaves every address outside the framebuffer as it was. -/
theorem spriteBlit_read_outside {x y : Int} {w h : Nat} {pix : List Byte} {s : State} {a : Nat} (ha : s.W * s.H ≤ a) :
    (spriteBlit x y w h pix s).vramRead a = s.vramRead a := by
  unfold spriteBlit
  dsimp only
  split
  · rfl
  next h0 =>
  have hcol : (clipRange x w s.W).1 + (clipRange x w s.W).2 ≤ s.W := by
    rcases clipRange_spec x w s.W with h | h
    · exact h
    · exact absurd h h0
  have rows : ∀ (n r0 : Nat) (u : State), u.W = s.W → r0 + n ≤ s.H ∨ n = 0 →
      ((List.range' r0 n).foldl (spriteRow x y w pix (clipRange x w s.W).1 (clipRange x w s.W).2) u).vramRead a =
        u.vramRead a := by
    intro n
    induction n with
    | zero => exact fun _ _ _ _ => rfl
    | succ n ih =>
      intro r0 u hu hr
      have hlast := Nat.mul_le_mul_left s.W (show r0 + 1 ≤ s.H by omega)
      have hu' : (spriteRow x y w pix (clipRange x w s.W).1 (clipRange x w s.W).2 u r0).W = s.W := hu
      rw [List.range'_succ, List.foldl_cons, ih (r0 + 1) _ hu' (by omega), spriteRow, State.vramRead_vramWriteRun, if_neg]
      simp only [State.addr, hu, List.length_take]
      rw [Nat.mul_add] at hlast
      omega
  exact rows _ _ _ rfl (clipRange_spec y h s.H)

/-- What the rows of a blit write depends on the framebuffer's width and the cells alone. -/
theorem rows_congr (x y : Int) (w : Nat) (pix : List Byte) (x0 count : Nat) (ys : List Nat) {s s' : State}
    (hW : s.W = s'.W) (hv : s.vram = s'.vram) :
    (ys.foldl (spriteRow x y w pix x0 count) s).vram = (ys.foldl (spriteRow x y w pix x0 count) s').vram := by
  induction ys generalizing s s' with
  | nil => exact hv
  | cons yy ys ih =>
    exact ih hW (by simp only [spriteRow, State.vramWriteRun, State.addr, hW, hv])

/-- What a blit writes depends on the framebuffer's size and the cells alone. -/
theorem spriteBlit_congr (x y : Int) (w h : Nat) (pix : List Byte) {s s' : State} (hW : s.W = s'.W)
    (hH : s.H = s'.H) (hv : s.vram = s'.vram) : (spriteBlit x y w h pix s).vram = (spriteBlit x y w h pix s').vram := by
  unfold spriteBlit
  dsimp only
  rw [hW, hH]
  split
  · exact hv
  · exact rows_congr _ _ _ _ _ _ _ hW hv

/-- A blit neither reads nor changes the palette and the ports. -/
theorem spriteBlit_with (x y : Int) (w h : Nat) (pix : List Byte) (s : State) (pal : List Color)
    (buf port : List Word) (cs : List Completion) (log : List PortEvent) :
    spriteBlit x y w h pix { s with pal := pal, packetBuf := buf, port := port, completions := cs, portLog := log } =
      { spriteBlit x y w h pix s with
        pal := pal, packetBuf := buf, port := port, completions := cs, portLog := log } := by
  rw [spriteBlit_only_vram, spriteBlit_only_vram (s := s)]
  simp only [State.mk.injEq, and_true, true_and]
  exact spriteBlit_congr x y w h pix rfl rfl rfl

/-- Neither does the cursor's advance. -/
theorem advance_with (s : State) (pal : List Color) (buf port : List Word) (cs : List Completion)
    (log : List PortEvent) :
    State.advance { s with pal := pal, packetBuf := buf, port := port, completions := cs, portLog := log } =
      { s.advance with pal := pal, packetBuf := buf, port := port, completions := cs, portLog := log } := by
  have e1 : State.gridCols { s with pal := pal, packetBuf := buf, port := port, completions := cs, portLog := log } =
    s.gridCols := rfl
  have e2 : State.gridRows { s with pal := pal, packetBuf := buf, port := port, completions := cs, portLog := log } =
    s.gridRows := rfl
  unfold State.advance
  rw [e1, e2]
  dsimp only
  by_cases h1 : s.curCol.toNat + 1 < s.gridCols
  · simp only [h1, if_true]
    rfl
  · by_cases h2 : s.curRow.toNat + 1 < s.gridRows
    · simp only [h1, h2, if_true, if_false]
      rfl
    · simp only [h1, h2, if_false]
      rfl

theorem wf_spriteBlit {x y : Int} {w h : Nat} {pix : List Byte} {s : State} (hm : Memory.wf s.vram) :
    Memory.wf (spriteBlit x y w h pix s).vram := by
  unfold spriteBlit
  dsimp only
  split
  · exact hm
  · exact wf_rows _ _ _ _ _ _ _ hm

end Machine
end Sys2Proof
end

