-- ==== Sys2Proof/Laws/Config.lean ====
section
/-! SUPPORT. What a well-formed configuration gives: every record a lookup finds is well formed, and every core built from
it starts in a mode of its table. -/

namespace Sys2Proof
namespace Configuration

theorem find?_mem {α : Type} {table : List (Id24 × α)} {id : Id24} {r : α} (h : find? table id = some r) :
    (id, r) ∈ table := by
  obtain ⟨⟨k, v⟩, hf, rfl⟩ := Option.map_eq_some_iff.1 h
  have hk : k = id := by simpa using List.find?_some hf
  exact hk ▸ List.mem_of_find?_eq_some hf

variable {c : Configuration}

theorem mode?_ok (hc : c.ok) {m : Id24} {M : ModeRecord} (h : c.mode? m = some M) : c.modeOk M :=
  hc.2.2.1 _ (find?_mem h)

theorem font?_ok (hc : c.ok) {f : Id24} {F : FontRecord} (h : c.font? f = some F) : fontOk F :=
  hc.2.2.2.1 _ (find?_mem h)

/-- A mode's default font is a font of the table that fits it (R12). -/
theorem mode?_font (hc : c.ok) {m : Id24} {M : ModeRecord} (h : c.mode? m = some M) :
    ∃ F, c.font? M.FONT0 = some F ∧ fits F M := by
  have := (mode?_ok hc h).2.2.2.2
  cases hF : c.font? M.FONT0 with
  | none => simp [hF] at this
  | some F => exact ⟨F, rfl, by simpa [hF] using this⟩

/-- The mode a core starts in (R157). -/
theorem resetMode (hc : c.ok) : ∃ M, c.mode? c.RESET_MODE = some M := Option.isSome_iff_exists.1 hc.2.2.2.2.1

theorem modeRecord_of {m : Id24} {M : ModeRecord} (h : c.mode? m = some M) : c.modeRecord m = M := by
  simp [modeRecord, h]

theorem fontRecord_of {f : Id24} {F : FontRecord} (h : c.font? f = some F) : c.fontRecord f = F := by
  simp [fontRecord, h]

@[simp] theorem defaultPalette_length (c : Configuration) (nc : Nat) : (c.defaultPalette nc).length = nc := by
  simp [defaultPalette]

/-- The default palette, entry by entry (R29). -/
theorem getElem?_defaultPalette (hc : c.DEFAULT16.length = 16) (nc i : Nat) (h : i < nc) :
    (c.defaultPalette nc)[i]? = if i < 16 then c.DEFAULT16[i]? else some ⟨0, 0, 0⟩ := by
  simp only [defaultPalette, List.getElem?_map, List.getElem?_range h, Option.map_some, defaultColor]
  split
  · next h' => simp [List.getD, List.getElem?_eq_getElem (show i < c.DEFAULT16.length by omega)]
  · rfl

end Configuration

namespace Config

/-- The spec's default configuration may be built from, for both values of `TEXT_MODE_COLORS` (R11). -/
theorem withTextColors_ok {n : Nat} (h : n = 16 ∨ n = 256) : (withTextColors n).ok := by
  rcases h with rfl | rfl <;> set_option maxRecDepth 10000 in decide

theorem default_ok : default.ok := withTextColors_ok (.inl rfl)

end Config

namespace Machine
namespace State

theorem modeRec_of {s : State} {M : ModeRecord} (h : s.config.mode? s.mode = some M) : s.modeRec = M :=
  Configuration.modeRecord_of h

theorem fontRec_of {s : State} {F : FontRecord} (h : s.config.font? s.font = some F) : s.fontRec = F :=
  Configuration.fontRecord_of h

/-- No framebuffer of a well-formed configuration is wider or higher than 65535, in any state. -/
theorem size_le {s : State} (hc : s.config.ok) : s.W ≤ 65535 ∧ s.H ≤ 65535 := by
  unfold W H
  cases h : s.config.mode? s.mode with
  | none => simp [modeRec, Configuration.modeRecord, h, Configuration.noMode]
  | some M =>
    have := Configuration.mode?_ok hc h
    rw [modeRec_of h]
    exact ⟨this.1.2, this.2.1.2⟩

/-- An unwritten cell's draw is an index of the palette (R107, D13). -/
theorem vramFree_lt {s : State} (h : s.NC = 16 ∨ s.NC = 256) (a : Nat) : (s.vramFree a).toNat < s.NC := by
  unfold vramFree
  rw [BitVec.toNat_ofNat]
  have := Nat.mod_lt (Config.vramInit s.vramEpoch a) (show 0 < s.NC by omega)
  omega

/-- A core is built from well-formed configurations alone, and starts at their reset. -/
theorem build?_eq_some {c : Configuration} {s : State} : build? c = some s ↔ c.ok ∧ s = resetWith c 0 0 := by
  unfold build?
  split
  · next h => exact ⟨fun e => ⟨h, (Option.some.inj e).symm⟩, fun e => e.2 ▸ rfl⟩
  · next h => exact ⟨nofun, fun e => absurd e.1 h⟩

end State
end Machine
end Sys2Proof
end

