-- ==== Sys2Proof/Laws/Operands.lean ====
section
/-! SUPPORT. Words as numbers: every field read is a quotient and a remainder, every word put together is a sum. From that,
every field of a word that was put together from fields is the field that was put in, and payload bytes that were packed
unpack to themselves. -/

namespace Sys2Proof
namespace Operand

/-! ### Fields and words as numbers -/

theorem extract_toNat (s n : Nat) (w : Word) : (w.extractLsb' s n).toNat = w.toNat / 2 ^ s % 2 ^ n := by
  rw [BitVec.extractLsb'_toNat, Nat.shiftRight_eq_div_pow]

theorem append_toNat {m n : Nat} (a : BitVec m) (b : BitVec n) : (a ++ b).toNat = a.toNat * 2 ^ n + b.toNat := by
  rw [BitVec.toNat_append, ← Nat.shiftLeft_add_eq_or_of_lt b.isLt, Nat.shiftLeft_eq]

theorem header24_toNat (op : Byte) (m : BitVec 24) : (header24 op m).toNat = op.toNat * 2 ^ 24 + m.toNat :=
  append_toNat op m

theorem header8_toNat (op idx : Byte) : (header8 op idx).toNat = op.toNat * 2 ^ 24 + idx.toNat :=
  (append_toNat (op ++ (0 : BitVec 16)) idx).trans (by
    rw [append_toNat, show (0 : BitVec 16).toNat = 0 from rfl]
    omega)

theorem headerG_toNat (op bg fg code : Byte) :
    (headerG op bg fg code).toNat = op.toNat * 2 ^ 24 + bg.toNat * 2 ^ 16 + fg.toNat * 2 ^ 8 + code.toNat :=
  (append_toNat (op ++ bg ++ fg) code).trans (by
    rw [append_toNat, append_toNat]
    omega)

theorem halves_toNat (hi lo : BitVec 16) : (halves hi lo).toNat = hi.toNat * 2 ^ 16 + lo.toNat := append_toNat hi lo

theorem packWord_toNat (a b c d : Byte) :
    (packWord a b c d).toNat = d.toNat * 2 ^ 24 + c.toNat * 2 ^ 16 + b.toNat * 2 ^ 8 + a.toNat :=
  (append_toNat (d ++ c ++ b) a).trans (by
    rw [append_toNat, append_toNat]
    omega)

theorem toPacked_toNat (c : Color) : c.toPacked.toNat = c.r.toNat * 65536 + c.g.toNat * 256 + c.b.toNat :=
  (append_toNat ((0 : BitVec 8) ++ c.r ++ c.g) c.b).trans (by
    rw [append_toNat, append_toNat, show (0 : BitVec 8).toNat = 0 from rfl]
    omega)

/-- Two words are equal when they are equal as numbers; a field is a quotient and a remainder. -/
theorem extract_eq (s n : Nat) (w : Word) (v : BitVec n) (h : w.toNat / 2 ^ s % 2 ^ n = v.toNat) :
    w.extractLsb' s n = v :=
  BitVec.eq_of_toNat_eq (by rw [extract_toNat, h])

theorem opcode_toNat (w : Word) : (opcode w).toNat = w.toNat / 2 ^ 24 := by
  rw [opcode, extract_toNat]
  omega

theorem low24_toNat (w : Word) : (low24 w).toNat = w.toNat % 2 ^ 24 := by
  rw [low24, extract_toNat]
  omega

theorem top8_toNat (w : Word) : (top8 w).toNat = w.toNat / 2 ^ 24 := opcode_toNat w

theorem mid16_toNat (w : Word) : (mid16 w).toNat = w.toNat / 2 ^ 8 % 2 ^ 16 := by rw [mid16, extract_toNat]

theorem lowHalf_toNat (w : Word) : (lowHalf w).toNat = w.toNat % 2 ^ 16 := by
  rw [lowHalf, extract_toNat]
  omega

theorem highHalf_toNat (w : Word) : (highHalf w).toNat = w.toNat / 2 ^ 16 := by
  rw [highHalf, extract_toNat]
  omega

/-! ### The fields of the words put together -/

@[simp] theorem opcode_header24 (op : Byte) (m : BitVec 24) : opcode (header24 op m) = op :=
  extract_eq _ _ _ _ (by rw [header24_toNat]; omega)

@[simp] theorem low24_header24 (op : Byte) (m : BitVec 24) : low24 (header24 op m) = m :=
  extract_eq _ _ _ _ (by rw [header24_toNat]; omega)

@[simp] theorem top8_header24 (op : Byte) (m : BitVec 24) : top8 (header24 op m) = op := opcode_header24 op m

@[simp] theorem opcode_header8 (op idx : Byte) : opcode (header8 op idx) = op :=
  extract_eq _ _ _ _ (by rw [header8_toNat]; omega)

@[simp] theorem mid16_header8 (op idx : Byte) : mid16 (header8 op idx) = 0 :=
  extract_eq _ _ _ _ (by
    rw [header8_toNat]
    have : (0 : BitVec 16).toNat = 0 := rfl
    omega)

@[simp] theorem low8_header8 (op idx : Byte) : low8 (header8 op idx) = idx :=
  extract_eq _ _ _ _ (by rw [header8_toNat]; omega)

@[simp] theorem opcode_headerG (op bg fg code : Byte) : opcode (headerG op bg fg code) = op :=
  extract_eq _ _ _ _ (by rw [headerG_toNat]; omega)

@[simp] theorem bgField_headerG (op bg fg code : Byte) : bgField (headerG op bg fg code) = bg :=
  extract_eq _ _ _ _ (by rw [headerG_toNat]; omega)

@[simp] theorem fgField_headerG (op bg fg code : Byte) : fgField (headerG op bg fg code) = fg :=
  extract_eq _ _ _ _ (by rw [headerG_toNat]; omega)

@[simp] theorem low8_headerG (op bg fg code : Byte) : low8 (headerG op bg fg code) = code :=
  extract_eq _ _ _ _ (by rw [headerG_toNat]; omega)

@[simp] theorem lowHalf_halves (hi lo : BitVec 16) : lowHalf (halves hi lo) = lo :=
  extract_eq _ _ _ _ (by rw [halves_toNat]; omega)

@[simp] theorem highHalf_halves (hi lo : BitVec 16) : highHalf (halves hi lo) = hi :=
  extract_eq _ _ _ _ (by rw [halves_toNat]; omega)

/-! ### Payload bytes -/

theorem bytesOf_packWord (a b c d : Byte) : bytesOf (packWord a b c d) = [a, b, c, d] := by
  have h := packWord_toNat a b c d
  unfold bytesOf
  rw [extract_eq 0 8 _ a (by omega), extract_eq 8 8 _ b (by omega), extract_eq 16 8 _ c (by omega),
    extract_eq 24 8 _ d (by omega)]

theorem bytesOf_length (w : Word) : (bytesOf w).length = 4 := rfl

theorem pack_length : (bs : List Byte) → (pack bs).length = ceil4 bs.length
  | [] => rfl
  | [_] => by simp [pack, ceil4]
  | [_, _] => by simp [pack, ceil4]
  | [_, _, _] => by simp [pack, ceil4]
  | _ :: _ :: _ :: _ :: rest => by
    simp only [pack, List.length_cons, pack_length rest, ceil4]
    omega

/-- The bytes of the packed words: the packed bytes, then at most three zero bytes of padding. -/
theorem flatMap_bytesOf_pack : (bs : List Byte) →
    ∃ k, (pack bs).flatMap bytesOf = bs ++ List.replicate k 0
  | [] => ⟨0, rfl⟩
  | [a] => ⟨3, by simp [pack, bytesOf_packWord]⟩
  | [a, b] => ⟨2, by simp [pack, bytesOf_packWord]⟩
  | [a, b, c] => ⟨1, by simp [pack, bytesOf_packWord]⟩
  | a :: b :: c :: d :: rest => by
    obtain ⟨k, hk⟩ := flatMap_bytesOf_pack rest
    exact ⟨k, by simp [pack, bytesOf_packWord, hk]⟩

/-- Packed bytes unpack to themselves. -/
theorem unpack_pack (bs : List Byte) : unpack bs.length (pack bs) = bs := by
  obtain ⟨k, hk⟩ := flatMap_bytesOf_pack bs
  simp [unpack, hk]

theorem flatMap_bytesOf_length (ws : List Word) : (ws.flatMap bytesOf).length = 4 * ws.length := by
  induction ws with
  | nil => rfl
  | cons w ws ih => simp only [List.flatMap_cons, List.length_append, bytesOf_length, ih, List.length_cons]; omega

/-- As many words as `ceil4 n` hold `n` bytes. -/
theorem unpack_length (n : Nat) (ws : List Word) (h : ceil4 n ≤ ws.length) : (unpack n ws).length = n := by
  rw [unpack, List.length_take, flatMap_bytesOf_length]
  unfold ceil4 at h
  omega

/-- Byte `k` of a word sequence is byte `k mod 4` of word `k div 4` (R45). -/
theorem getElem?_flatMap_bytesOf (ws : List Word) (k : Nat) :
    (ws.flatMap bytesOf)[k]? = ws[k / 4]?.map (fun w => w.extractLsb' (8 * (k % 4)) 8) := by
  induction ws generalizing k with
  | nil => simp
  | cons w ws ih =>
    rw [List.flatMap_cons, List.getElem?_append, bytesOf_length]
    split
    · next h =>
      have : k = 0 ∨ k = 1 ∨ k = 2 ∨ k = 3 := by omega
      rcases this with rfl | rfl | rfl | rfl <;> simp [bytesOf]
    · next h =>
      rw [ih, show k / 4 = (k - 4) / 4 + 1 by omega, List.getElem?_cons_succ, show (k - 4) % 4 = k % 4 by omega]

end Operand

namespace Color

/-- R79, first half, for the decoder's use of it. -/
theorem fromPacked_toPacked (c : Color) : fromPacked c.toPacked = c := by
  have h := Operand.toPacked_toNat c
  unfold fromPacked
  rw [Operand.extract_eq 16 8 _ c.r (by omega), Operand.extract_eq 8 8 _ c.g (by omega),
    Operand.extract_eq 0 8 _ c.b (by omega)]

end Color
end Sys2Proof
end

