-- ==== Sys2Proof/Laws/Decode.lean ====
section
/-! SUPPORT. The decoder said once: what it answers when the packet's length is known, and that the length and the fields
are read from the packet's own words, whatever follows them. -/

namespace Sys2Proof

/-! ### The rows of the opcode map, opcode by opcode -/

@[simp] theorem rowOf_setMode : rowOf 1#8 = some (.setMode, .i24) := rfl
@[simp] theorem rowOf_setPalette : rowOf 2#8 = some (.setPalette, .lColors) := rfl
@[simp] theorem rowOf_setColor : rowOf 3#8 = some (.setColor, .i8w) := rfl
@[simp] theorem rowOf_getColor : rowOf 4#8 = some (.getColor, .i8) := rfl
@[simp] theorem rowOf_resetPalette : rowOf 5#8 = some (.resetPalette, .n) := rfl
@[simp] theorem rowOf_setPixel : rowOf 16#8 = some (.setPixel, .i8w) := rfl
@[simp] theorem rowOf_getPixel : rowOf 17#8 = some (.getPixel, .w) := rfl
@[simp] theorem rowOf_blitFull : rowOf 18#8 = some (.blitFull, .lBytes) := rfl
@[simp] theorem rowOf_blitSprite : rowOf 19#8 = some (.blitSprite, .s) := rfl
@[simp] theorem rowOf_putcharAt : rowOf 32#8 = some (.putcharAt, .gxy) := rfl
@[simp] theorem rowOf_putchar : rowOf 33#8 = some (.putchar, .g) := rfl
@[simp] theorem rowOf_setCursor : rowOf 34#8 = some (.setCursor, .w) := rfl
@[simp] theorem rowOf_getCursor : rowOf 35#8 = some (.getCursor, .n) := rfl
@[simp] theorem rowOf_setFont : rowOf 36#8 = some (.setFont, .i24) := rfl
@[simp] theorem rowOf_getFont : rowOf 37#8 = some (.getFont, .n) := rfl
@[simp] theorem rowOf_getGlyph : rowOf 38#8 = some (.getGlyph, .gf) := rfl
@[simp] theorem rowOf_fontSize : rowOf 39#8 = some (.fontSize, .i24) := rfl
@[simp] theorem rowOf_showFrame : rowOf 48#8 = some (.showFrame, .n) := rfl

/-! ### Well-formedness where it says something -/

@[simp] theorem wellFormed_setPalette (cs : List Color) : (Instr.setPalette cs).wellFormed = decide (cs.length < 2 ^ 24) :=
  rfl

@[simp] theorem wellFormed_blitFull (bs : List Byte) : (Instr.blitFull bs).wellFormed = decide (bs.length < 2 ^ 24) := rfl

@[simp] theorem wellFormed_blitSprite (x y : Word) (w h : BitVec 16) (bs : List Byte) :
    (Instr.blitSprite x y w h bs).wellFormed = decide (bs.length = w.toNat * h.toNat) := rfl

/-- The colors of packed words are the colors that were packed (R79). -/
theorem map_fromPacked_toPacked (cs : List Color) : (cs.map Color.toPacked).map Color.fromPacked = cs := by
  rw [List.map_map]
  exact (List.map_congr_left fun c _ => Color.fromPacked_toPacked c).trans (List.map_id cs)

theorem wordAt_cons_zero (w : Word) (ws : List Word) : wordAt (w :: ws) 0 = w := rfl

theorem wordAt_cons_succ (w : Word) (ws : List Word) (k : Nat) : wordAt (w :: ws) (k + 1) = wordAt ws k := rfl

theorem wordAt_append {ws : List Word} {k : Nat} (h : k < ws.length) (rest : List Word) :
    wordAt (ws ++ rest) k = wordAt ws k := by
  simp [wordAt, List.getElem?_append_left h]

theorem wordAt_take {ws : List Word} {k n : Nat} (h : k < n) : wordAt (ws.take n) k = wordAt ws k := by
  simp [wordAt, List.getElem?_take_of_lt h]

/-! ### Length, packet and stream, without their matches -/

theorem packetLen_of_row {ws : List Word} {op : Op} {f : Format} (hne : ws ≠ [])
    (h : rowOf (Operand.opcode (wordAt ws 0)) = some (op, f)) : packetLen ws = formatLen f ws := by
  cases ws with
  | nil => exact absurd rfl hne
  | cons w r => simp only [packetLen, show rowOf (Operand.opcode w) = some (op, f) from h]

theorem packetLen_of_unlisted {ws : List Word} (hne : ws ≠ [])
    (h : rowOf (Operand.opcode (wordAt ws 0)) = none) : packetLen ws = some 1 := by
  cases ws with
  | nil => exact absurd rfl hne
  | cons w r => simp only [packetLen, show rowOf (Operand.opcode w) = none from h]

theorem decodePacket_of_row {ws : List Word} {op : Op} {f : Format}
    (h : rowOf (Operand.opcode (wordAt ws 0)) = some (op, f)) :
    decodePacket ws = if reservedZero f ws then .inr (build op ws) else .inl .reservedBit := by
  simp only [decodePacket, h]

theorem decodePacket_of_unlisted {ws : List Word} (h : rowOf (Operand.opcode (wordAt ws 0)) = none) :
    decodePacket ws = .inl .unknownOpcode := by
  simp only [decodePacket, h]

theorem decode_of_command {ws : List Word} {n : Nat} {i : Instr} (h : packetLen ws = some n) (hn : n ≤ ws.length)
    (hd : decodePacket (ws.take n) = .inr i) : decode ws = .command i n := by
  simp only [decode, h, hd, if_neg (show ¬ ws.length < n by omega)]

theorem decode_of_illegal {ws : List Word} {n : Nat} {why : Illegal} (h : packetLen ws = some n) (hn : n ≤ ws.length)
    (hd : decodePacket (ws.take n) = .inl why) : decode ws = .illegal why n := by
  simp only [decode, h, hd, if_neg (show ¬ ws.length < n by omega)]

/-- A row's length takes in its header, and the words whose reserved bits are checked. -/
theorem formatLen_pos {f : Format} {ws : List Word} {n : Nat} (h : formatLen f ws = some n) : 0 < n := by
  cases f <;> simp [formatLen] at h <;> omega

/-- What the decoder answers, in its three cases. -/
theorem decode_cases (ws : List Word) :
    (decode ws = .incomplete ∧ (packetLen ws = none ∨ ∃ n, packetLen ws = some n ∧ ws.length < n)) ∨
      ∃ n, packetLen ws = some n ∧ n ≤ ws.length ∧
        ((∃ why, decodePacket (ws.take n) = .inl why ∧ decode ws = .illegal why n) ∨
          ∃ i, decodePacket (ws.take n) = .inr i ∧ decode ws = .command i n) := by
  unfold decode
  cases h : packetLen ws with
  | none => simp
  | some n =>
    by_cases hn : ws.length < n
    · simp [hn]
    · right
      refine ⟨n, rfl, by omega, ?_⟩
      cases hd : decodePacket (ws.take n) <;> simp [hn, hd]

theorem decode_incomplete_iff (ws : List Word) :
    decode ws = .incomplete ↔ packetLen ws = none ∨ ∃ n, packetLen ws = some n ∧ ws.length < n := by
  rcases decode_cases ws with ⟨h, h'⟩ | ⟨n, hl, hn, h⟩
  · simp [h, h']
  · have : decode ws ≠ .incomplete := by rcases h with ⟨_, _, h⟩ | ⟨_, _, h⟩ <;> simp [h]
    simp only [this, hl, false_iff, not_or]
    refine ⟨by simp, ?_⟩
    rintro ⟨m, hm, hlt⟩
    cases hm
    omega

end Sys2Proof
end

