-- ==== Sys2Proof/Laws/PerInstr.lean ====
section
/-! SUPPORT. Statements about every constructor of Instr as syntax. `Header` says what the first word of a command's packet is:
its opcode is the one R68 gives the row, with the row's format, and its reserved bits are zero. -/

namespace Sys2Proof
namespace Laws
namespace Header

/-- The opcode of the row (R68). -/
def opcodeOf (i : Instr) : Byte :=
  match i with
  | .setMode _ => 0x01
  | .setPalette _ => 0x02
  | .setColor _ _ => 0x03
  | .getColor _ => 0x04
  | .resetPalette => 0x05
  | .setPixel _ _ _ => 0x10
  | .getPixel _ _ => 0x11
  | .blitFull _ => 0x12
  | .blitSprite _ _ _ _ _ => 0x13
  | .putcharAt _ _ _ _ _ => 0x20
  | .putchar _ _ _ => 0x21
  | .setCursor _ _ => 0x22
  | .getCursor => 0x23
  | .setFont _ => 0x24
  | .getFont => 0x25
  | .getGlyph _ _ _ _ => 0x26
  | .fontSize _ => 0x27
  | .showFrame => 0x30

/-- The packet of `i` begins with a header of the row's opcode, listed in the map, and no reserved bit of it is set. -/
def Statement (i : Instr) : Prop :=
  ∃ w0 rest op f, encode i = w0 :: rest ∧ Operand.opcode w0 = opcodeOf i ∧ rowOf (opcodeOf i) = some (op, f) ∧
    reservedZero f (encode i) = true

theorem setMode (m : Id24) : Statement (.setMode m) := ⟨_, _, _, _, rfl, by simp [opcodeOf], rfl, rfl⟩

theorem setPalette (cs : List Color) : Statement (.setPalette cs) := ⟨_, _, _, _, rfl, by simp [opcodeOf], rfl, rfl⟩

theorem setColor (idx : Byte) (c : Color) : Statement (.setColor idx c) :=
  ⟨_, _, _, _, rfl, by simp [opcodeOf], rfl, by simp [reservedZero, encode, wordAt]⟩

theorem getColor (idx : Byte) : Statement (.getColor idx) :=
  ⟨_, _, _, _, rfl, by simp [opcodeOf], rfl, by simp [reservedZero, encode, wordAt]⟩

theorem resetPalette : Statement .resetPalette := ⟨_, _, _, _, rfl, rfl, rfl, rfl⟩

theorem setPixel (idx : Byte) (x y : BitVec 16) : Statement (.setPixel idx x y) :=
  ⟨_, _, _, _, rfl, by simp [opcodeOf], rfl, by simp [reservedZero, encode, wordAt]⟩

theorem getPixel (x y : BitVec 16) : Statement (.getPixel x y) :=
  ⟨_, _, _, _, rfl, rfl, rfl, by simp [reservedZero, encode, wordAt]⟩

theorem blitFull (bs : List Byte) : Statement (.blitFull bs) := ⟨_, _, _, _, rfl, by simp [opcodeOf], rfl, rfl⟩

theorem blitSprite (x y : Word) (w h : BitVec 16) (bs : List Byte) : Statement (.blitSprite x y w h bs) :=
  ⟨_, _, _, _, rfl, rfl, rfl, by simp [reservedZero, encode, wordAt]⟩

theorem putcharAt (code fg bg : Byte) (x y : Word) : Statement (.putcharAt code fg bg x y) :=
  ⟨_, _, _, _, rfl, by simp [opcodeOf], rfl, rfl⟩

theorem putchar (code fg bg : Byte) : Statement (.putchar code fg bg) :=
  ⟨_, _, _, _, rfl, by simp [opcodeOf], rfl, rfl⟩

theorem setCursor (col row : BitVec 16) : Statement (.setCursor col row) :=
  ⟨_, _, _, _, rfl, rfl, rfl, by simp [reservedZero, encode, wordAt]⟩

theorem getCursor : Statement .getCursor := ⟨_, _, _, _, rfl, rfl, rfl, rfl⟩

theorem setFont (f : Id24) : Statement (.setFont f) := ⟨_, _, _, _, rfl, by simp [opcodeOf], rfl, rfl⟩

theorem getFont : Statement .getFont := ⟨_, _, _, _, rfl, rfl, rfl, rfl⟩

theorem getGlyph (f : Id24) (code fg bg : Byte) : Statement (.getGlyph f code fg bg) :=
  ⟨_, _, _, _, rfl, by simp [opcodeOf], rfl, by simp [reservedZero, encode, wordAt]⟩

theorem fontSize (f : Id24) : Statement (.fontSize f) := ⟨_, _, _, _, rfl, by simp [opcodeOf], rfl, rfl⟩

theorem showFrame : Statement .showFrame := ⟨_, _, _, _, rfl, rfl, rfl, rfl⟩

end Header
end Laws
end Sys2Proof
end

