-- ==== Sys2Proof/Laws/Step.lean ====
section
/-! SUPPORT. What a step can do, said once. -/

namespace Sys2Proof
namespace Machine

/-- A step holds an incomplete packet, or completes an illegal one, or runs a command. -/
theorem step_cases {s t : State} (h : step s = .next t) :
    (decode s.pending = .incomplete ∧ t = s.hold) ∨
      (∃ why n, decode s.pending = .illegal why n ∧ t = (s.accept n).raise .illegalCommand) ∨
      ∃ i n, decode s.pending = .command i n ∧ exec i (s.accept n) = .next t := by
  unfold step at h
  split at h
  · exact .inl ⟨‹_›, by simpa using h.symm⟩
  · exact .inr (.inl ⟨_, _, ‹_›, by simpa using h.symm⟩)
  · exact .inr (.inr ⟨_, _, ‹_›, h⟩)

theorem step_of_command {s : State} {i : Instr} {n : Nat} (h : decode s.pending = .command i n) :
    step s = exec i (s.accept n) := by
  unfold step
  rw [h]

theorem step_of_illegal {s : State} {why : Illegal} {n : Nat} (h : decode s.pending = .illegal why n) :
    step s = .next ((s.accept n).raise .illegalCommand) := by
  unfold step
  rw [h]

theorem step_of_incomplete {s : State} (h : decode s.pending = .incomplete) : step s = .next s.hold := by
  unfold step
  rw [h]

/-- A step on a packet `w0 :: ws` of a listed opcode: its command runs, or a reserved bit raises IllegalCommand; either way
the words after the packet stay on the port. -/
theorem step_of_row {s : State} {w0 : Word} {ws rest : List Word} {k : Byte} {op : Op} {f : Format}
    (hp : s.packetBuf ++ s.port = w0 :: (ws ++ rest)) (hk : Operand.opcode w0 = k) (hr : rowOf k = some (op, f))
    (hl : formatLen f (w0 :: (ws ++ rest)) = some (ws.length + 1)) :
    step s =
      if reservedZero f (w0 :: ws) then
        exec (build op (w0 :: ws)) { s with packetBuf := [], port := rest }
      else .next (State.raise .illegalCommand { s with packetBuf := [], port := rest }) := by
  have hp' : s.pending = w0 :: (ws ++ rest) := hp
  have row : ∀ r, rowOf (Operand.opcode (wordAt (w0 :: r) 0)) = some (op, f) := fun r => by
    rw [wordAt_cons_zero, hk, hr]
  have len : packetLen s.pending = some (ws.length + 1) := by
    rw [hp', packetLen_of_row (List.cons_ne_nil _ _) (row _), hl]
  have hn : ws.length + 1 ≤ s.pending.length := by
    rw [hp', List.length_cons, List.length_append]
    omega
  have tk : s.pending.take (ws.length + 1) = w0 :: ws := by
    rw [hp', List.take_succ_cons, List.take_left]
  have acc : s.accept (ws.length + 1) = { s with packetBuf := [], port := rest } := by
    rw [State.accept, hp', List.drop_succ_cons, List.drop_left]
  have hd := decodePacket_of_row (row ws)
  rw [← tk] at hd
  split
  · next hz =>
    rw [tk, if_pos hz, ← tk] at hd
    rw [step_of_command (decode_of_command len hn hd), acc, tk]
  · next hz =>
    rw [tk, if_neg hz, ← tk] at hd
    rw [step_of_illegal (decode_of_illegal len hn hd), acc]

/-- The fetch the host's probe places is the next packet the core has before it. -/
theorem withFetchWord_pending (s : State) (nbits w : Nat) :
    (s.withFetchWord nbits w).pending = tableWords nbits w ++ s.port := rfl

end Machine
end Sys2Proof
end

