-- ==== Sys2Proof/Tests/Slice0.lean ====
section
/-! SUPPORT. The model's own tests, with the numbers of 95_test_vectors.md and of the examples in the rules, and for every
statement with hypotheses a state and operands that meet them. -/

namespace Sys2Proof
namespace Tests

open Machine

/-! ## Small states -/

/-- The start of 95_test_vectors.md: mode `0x80` (16×8, 16 colors, font `0x10`), every cell 0, a surface held. -/
def start : State :=
  { State.resetWith { Config.default with RESET_MODE := 0x000080 } 0 0 with
    surf := true, portLog := [], vram := Memory.run 0 (List.replicate 128 0) }

/-- The same in mode 1 (320×200, 256 colors), no cell written. -/
def start1 : State := { State.reset with surf := true, portLog := [] }

/-- `start` with these words on the command port. -/
def offered (ws : List Word) : State := { start with port := ws }

/-- The next state, or the state itself. -/
def after (i : Instr) (s : State) : State :=
  match exec i s with
  | .next t => t
  | .fault _ | .refused _ => s

/-- The state after one step. -/
def stepped (s : State) : State :=
  match step s with
  | .next t => t
  | .fault _ | .refused _ => s

/-- A pixel row, column 0 first. -/
def row (s : State) (y : Nat) : List Byte := (List.range s.W).map (fun x => s.vramRead (s.addr x y))

/-- The last completion. -/
def last (s : State) : Option Completion := s.completions.getLast?

theorem start_configOk : start.config.ok := by
  set_option maxRecDepth 10000 in decide

theorem start_inv : start.Inv where
  configOk := start_configOk
  modeKey := by decide
  fontFits := by decide
  palSize := by decide
  vramWf := Memory.wf_run 0 _
  vramCells := by
    intro c hc
    obtain ⟨h, h'⟩ := (Memory.mem_run 0 _ c).1 hc
    obtain ⟨hl, hv⟩ := List.getElem?_eq_some_iff.1 h'
    simp only [List.length_replicate] at hl
    rw [List.getElem_replicate] at hv
    rw [← hv, show start.W * start.H = 128 from rfl, show start.NC = 16 from rfl]
    exact ⟨by omega, by decide⟩
  bufPartial := by decide
  errorsEmpty := by decide
  framesOk := by decide

/-! ## Well-formedness: one ill-formed command for each check -/

theorem test_wf_refuses_long_palette (cs : List Color) (h : cs.length = 2 ^ 24) :
    (Instr.setPalette cs).wellFormed = false := by
  simp [h]

theorem test_wf_refuses_long_blit (bs : List Byte) (h : bs.length = 2 ^ 24) :
    (Instr.blitFull bs).wellFormed = false := by
  simp [h]

/-- The two counts of 2^24 exist. -/
theorem test_wf_long_lists : (∃ cs : List Color, cs.length = 2 ^ 24) ∧ ∃ bs : List Byte, bs.length = 2 ^ 24 :=
  ⟨⟨_, List.length_replicate (a := (⟨0, 0, 0⟩ : Color))⟩, ⟨_, List.length_replicate (a := (0 : Byte))⟩⟩

theorem test_wf_refuses_sprite_of_wrong_size : (Instr.blitSprite 0 0 2 2 [1, 2, 3]).wellFormed = false := by decide

theorem test_wf_takes_zero_width : (Instr.blitSprite 0 0 0 1 []).wellFormed = true := by decide

/-! ## Configurations (R11, R12, R95, R157): one ill-formed for each check, and cores of other configurations -/

/-- One mode and one font, 8×1. -/
def tiny (W H NC : Nat) : Configuration :=
  { Config.default with
    MODE_TABLE := [(7, ⟨W, H, NC, 9⟩)]
    FONT_TABLE := [(9, ⟨8, 1, .unstated 256⟩)]
    RESET_MODE := 7 }

theorem test_build_refuses_bad_modes :
    State.build? (tiny 7 1 16) = none ∧ State.build? (tiny 8 0 16) = none ∧ State.build? (tiny 65536 1 16) = none ∧
    State.build? (tiny 8 65536 16) = none ∧ State.build? (tiny 4097 4096 16) = none ∧ State.build? (tiny 8 1 17) = none := by
  decide

theorem test_build_refuses_bad_fonts :
    State.build? { tiny 8 1 16 with FONT_TABLE := [(9, ⟨7, 1, .unstated 256⟩)] } = none ∧
    State.build? { tiny 8 1 16 with FONT_TABLE := [(9, ⟨8, 0, .unstated 256⟩)] } = none ∧
    State.build? { tiny 8 1 16 with FONT_TABLE := [(9, ⟨8, 1, .unstated 255⟩)] } = none ∧
    State.build? { tiny 8 1 16 with FONT_TABLE := [] } = none := by decide

theorem test_build_refuses_bad_keys :
    State.build? { tiny 8 1 16 with RESET_MODE := 8 } = none ∧
    State.build? { tiny 8 1 16 with MODE_TABLE := [(7, ⟨8, 1, 16, 9⟩), (7, ⟨8, 1, 16, 9⟩)] } = none ∧
    State.build? { tiny 8 1 16 with DEFAULT16 := [] } = none := by decide

theorem tiny_ok : (tiny 9 3 256).ok := by decide

/-- A core of another mode table, font table and reset mode runs its own modes and fonts, and not the default's. -/
theorem test_other_configuration :
    let s := State.resetWith (tiny 9 3 256) 0 0
    (s.W = 9 ∧ s.H = 3 ∧ s.gridCols = 1 ∧ s.gridRows = 3 ∧ s.pal.length = 256) ∧
    last (after (.blitFull ((List.range 27).map (BitVec.ofNat 8))) s) = some ⟨.ok, []⟩ ∧
    last (after (.setMode 1) s) = some ⟨.unknownMode, []⟩ ∧ last (after (.setFont 1) s) = some ⟨.invalidArgument, []⟩ := by
  set_option maxRecDepth 10000 in decide

/-- The text mode with 256 colors (R11): its palette has an entry 255. -/
theorem test_text_mode_of_256_colors :
    let s := { State.resetWith { Config.withTextColors 256 with RESET_MODE := 3 } 0 0 with surf := true }
    (s.W = 720 ∧ s.H = 400 ∧ s.pal.length = 256) ∧
    last (after (.setColor 255 ⟨1, 2, 3⟩) s) = some ⟨.ok, []⟩ ∧ last (after (.setPixel 255 719 399) s) = some ⟨.ok, []⟩ := by
  set_option maxRecDepth 10000 in decide

/-! ## Decoding words written out from the spec -/

theorem test_decode_mode : decode [0x01000002] = .command (.setMode 2) 1 := by decide

theorem test_decode_palette :
    decode [0x02000002, 0x00101010, 0xFF202020] =
      .command (.setPalette [⟨0x10, 0x10, 0x10⟩, ⟨0x20, 0x20, 0x20⟩]) 3 ∧
    decode [0x03000001, 0xFF123456] = .command (.setColor 1 ⟨0x12, 0x34, 0x56⟩) 2 ∧
    decode [0x0400000F] = .command (.getColor 15) 1 ∧ decode [0x05000000] = .command .resetPalette 1 := by decide

theorem test_decode_pixel :
    decode [0x10000005, 0x00C7013F] = .command (.setPixel 5 319 199) 2 ∧
    decode [0x11000000, 0x0007000F] = .command (.getPixel 15 7) 2 ∧
    decode [0x12000004, 0x10000000] = .command (.blitFull [0, 0, 0, 16]) 2 ∧
    decode [0x13000000, 0x0000000E, 0xFFFFFFFF, 0x00030002, 0x03030201, 0x00000102] =
      .command (.blitSprite 14 (-1) 2 3 [1, 2, 3, 3, 2, 1]) 6 := by decide

theorem test_decode_text :
    decode [0x20000141, 0xFFFFFFFF, 0x00000007] = .command (.putcharAt 0x41 1 0 (-1) 7) 3 ∧
    decode [0x210605FF] = .command (.putchar 0xFF 5 6) 1 ∧
    decode [0x22000000, 0x00090003] = .command (.setCursor 3 9) 2 ∧ decode [0x23000000] = .command .getCursor 1 ∧
    decode [0x24000011] = .command (.setFont 0x11) 1 ∧ decode [0x25000000] = .command .getFont 1 := by decide

theorem test_decode_glyph_and_show :
    decode [0x26020300, 0x00000010] = .command (.getGlyph 0x10 0 3 2) 2 ∧
    decode [0x27000010] = .command (.fontSize 0x10) 1 ∧ decode [0x30000000] = .command .showFrame 1 := by decide

/-- V57, V43, V16, V60, V61 and a packet that has not arrived. -/
theorem test_decode_refuses :
    decode [0x30000001] = .illegal .reservedBit 1 ∧ decode [0x22000001, 0] = .illegal .reservedBit 2 ∧
    decode [0x26000141, 0x01000010] = .illegal .reservedBit 2 ∧ decode [0x00000000] = .illegal .unknownOpcode 1 ∧
    decode [0x14000000, 0x00010001] = .illegal .unknownOpcode 1 ∧ decode [0x13000000, 0, 0] = .incomplete := by decide

theorem test_encode :
    encode (.setPixel 5 319 199) = [0x10000005, 0x00C7013F] ∧
    encode (.getGlyph 0x11 0x41 1 0) = [0x26000141, 0x00000011] ∧
    encode (.blitSprite 14 (-1) 2 3 [1, 2, 3, 3, 2, 1]) =
      [0x13000000, 0x0000000E, 0xFFFFFFFF, 0x00030002, 0x03030201, 0x00000102] := by decide

theorem test_table_word :
    decodeTableWord 32 0x22000000 = some (.setCursor 0 0) ∧ decodeTableWord 32 0x12000003 = some (.blitFull [0, 0, 0]) ∧
    decodeTableWord 64 0x00C7013F10000005 = some (.setPixel 5 319 199) ∧ decodeTableWord 32 0x00000000 = none := by
  decide

/-- V64 and V65: the pseudo-instructions as text. P2: a COLOR word with its top byte. -/
theorem test_assembler :
    Asm.parse "set_rgb 3, 0x12, 0x34, 0x56 ; a color" = some (some ⟨"set_rgb", [3, 0x12, 0x34, 0x56]⟩) ∧
    Asm.words 128 ⟨"set_rgb", [3, 0x12, 0x34, 0x56]⟩ = some [0x03000003, 0x00123456] ∧
    Asm.words 128 ⟨"putchar", [0x41, 7]⟩ = some [0x21000741] ∧
    Asm.words 64000 ⟨"set_color", [3, 0xFF0000FF]⟩ = some [0x03000003, 0xFF0000FF] ∧
    Asm.words 64000 ⟨"set_color", [3, 0x100000000]⟩ = none := by
  set_option maxRecDepth 10000 in decide

/-! ## One step of each command -/

/-- V21: an unknown mode changes nothing. -/
theorem test_setMode_unknown : exec (.setMode 0) start = .next (start.done .unknownMode []) := rfl

/-- V26, the granted acquisition: mode 2's palette, font and cursor, no cell written. -/
theorem test_setMode_granted :
    let t := start.switchMode 2 ⟨640, 480, 16, 3⟩ true
    t.W = 640 ∧ t.font = 3 ∧ t.gridCols = 80 ∧ t.gridRows = 30 ∧ t.vram = [] ∧ t.surf = true ∧
      t.portLog = [.release, .acquire 640 480] := by decide

/-- V23, the refused one: only SURF changes, and the palette stays. -/
theorem test_setMode_refused :
    let t := start.switchMode 2 ⟨640, 480, 16, 3⟩ false
    t.mode = 0x80 ∧ t.surf = false ∧ last t = some ⟨.resourceCreationFailed, []⟩ := by decide

/-- V30: 17 colors for 16 entries. -/
theorem test_setPalette_too_long :
    after (.setPalette (List.replicate 17 ⟨255, 255, 255⟩)) start = start.done .invalidArgument [] := rfl

theorem test_setPalette_first_entries :
    (after (.setPalette [⟨1, 1, 1⟩, ⟨2, 2, 2⟩]) start).pal.take 3 = [⟨1, 1, 1⟩, ⟨2, 2, 2⟩, ⟨0, 0xAA, 0⟩] := by decide

/-- V30b through a step. -/
theorem test_setColor : (stepped (offered [0x03000001, 0xFF123456])).pal[1]? = some ⟨0x12, 0x34, 0x56⟩ := by decide

/-- V30g: index 255 exists in a 256-color mode and not in a 16-color one. -/
theorem test_setColor_bound :
    last (after (.setColor 255 ⟨1, 2, 3⟩) start1) = some ⟨.ok, []⟩ ∧
    last (after (.setColor 16 ⟨1, 2, 3⟩) start) = some ⟨.outOfRange, []⟩ := by decide

/-- Index 5 is magenta (P1, C5); V30c. -/
theorem test_getColor :
    last (after (.getColor 5) start) = some ⟨.ok, [0x00AA00AA]⟩ ∧
    last (after (.getColor 16) start) = some ⟨.outOfRange, []⟩ := by decide

/-- V30e. -/
theorem test_resetPalette :
    (after .resetPalette (after (.setColor 1 ⟨9, 9, 9⟩) start)).pal[1]? = some ⟨0, 0, 0xAA⟩ := by decide

/-- V31e: cell (15, 7) is address 127. -/
theorem test_setPixel : (after (.setPixel 15 15 7) start).vramRead 127 = 15 := by decide

/-- V31a and V31b: no wrap. -/
theorem test_setPixel_out_of_range :
    exec (.setPixel 1 16 0) start = .next (start.done .outOfRange []) ∧
    exec (.setPixel 1 0 8) start = .next (start.done .outOfRange []) := ⟨rfl, rfl⟩

theorem test_getPixel :
    last (after (.getPixel 15 7) (after (.setPixel 15 15 7) start)) = some ⟨.ok, [15]⟩ ∧
    last (after (.getPixel 0 8) start) = some ⟨.outOfRange, []⟩ := by decide

/-- V33, one row of it, and V35: the count is checked before the bytes. -/
theorem test_blitFull :
    row (after (.blitFull ((List.range 128).map (fun k => BitVec.ofNat 8 (k % 16)))) start) 2 =
      [0, 1, 2, 3, 4, 5, 6, 7, 8, 9, 10, 11, 12, 13, 14, 15] ∧
    last (after (.blitFull [0, 0, 0, 16]) start) = some ⟨.invalidArgument, []⟩ := by
  set_option maxRecDepth 10000 in decide

/-- V34: one bad byte and nothing changes. -/
theorem test_blitFull_bad_index :
    after (.blitFull (List.replicate 127 0 ++ [16])) start = start.done .outOfRange [] := by
  set_option maxRecDepth 10000 in decide

/-- V37d: 3×3 at (14, 6). -/
theorem test_blitSprite_right_bottom :
    let t := after (.blitSprite 14 6 3 3 [1, 2, 3, 4, 5, 6, 7, 8, 9]) start
    row t 5 = List.replicate 16 0 ∧ row t 6 = List.replicate 14 0 ++ [1, 2] ∧ row t 7 = List.replicate 14 0 ++ [4, 5] := by
  set_option maxRecDepth 10000 in decide

/-- V37e: 3×3 at (-1, -2). -/
theorem test_blitSprite_left_top :
    let t := after (.blitSprite (-1) (-2) 3 3 [1, 2, 3, 4, 5, 6, 7, 8, 9]) start
    row t 0 = [8, 9] ++ List.replicate 14 0 ∧ row t 1 = List.replicate 16 0 := by
  set_option maxRecDepth 10000 in decide

/-- V45: clipped left and below, the cursor kept. -/
theorem test_putcharAt :
    let t := after (.putcharAt 0x41 1 0 (-1) 7) start
    row t 7 = [1, 0, 0, 0, 0, 0, 1, 0, 0, 0, 0, 0, 0, 0, 0, 0] ∧ t.curCol = 0 := by
  set_option maxRecDepth 10000 in decide

/-- V47: off-screen, the bad index still rejected. -/
theorem test_putcharAt_bad_index :
    exec (.putcharAt 0x41 16 0 16 0) start = .next (start.done .outOfRange []) := rfl

/-- V38. -/
theorem test_putchar :
    let t := after (.putchar 0x41 1 0) start
    row t 0 = [0, 1, 0, 0, 0, 0, 0, 1, 0, 0, 0, 0, 0, 0, 0, 0] ∧ row t 1 = [1] ++ List.replicate 15 0 ∧
      t.curCol = 1 ∧ t.curRow = 0 := by
  set_option maxRecDepth 10000 in decide

/-- V44: the last cell of the grid, then back to (0, 0). -/
theorem test_putchar_last_cell :
    let t := after (.putchar 0xFF 5 6) (after (.setCursor 1 3) start)
    row t 7 = List.replicate 8 0 ++ [5, 6, 6, 6, 6, 6, 6, 6] ∧ t.curCol = 0 ∧ t.curRow = 0 := by
  set_option maxRecDepth 10000 in decide

/-- V42. -/
theorem test_setCursor : last (after .getCursor (after (.setCursor 3 9) start)) = some ⟨.ok, [0x00010001]⟩ := by decide

/-- V51: a cursor outside the new grid is answered as stored. -/
theorem test_setFont_keeps_cursor :
    let t := after (.setFont 0x11) (after (.setCursor 1 0) start)
    last (after .getFont t) = some ⟨.ok, [0x00000011]⟩ ∧ last (after .getCursor t) = some ⟨.ok, [0x00000001]⟩ := by decide

/-- V48 and V49. -/
theorem test_setFont_refused :
    exec (.setFont 0x12) start = .next (start.done .invalidArgument []) ∧
    exec (.setFont 4) start = .next (start.done .invalidArgument []) := ⟨rfl, rfl⟩

/-- V11: nine wide, two bytes of padding. -/
theorem test_getGlyph_nine_wide :
    last (after (.getGlyph 0x11 0x41 1 0) start) =
      some ⟨.ok, [0x00000100, 0x01000000, 0x00000100, 0x00000000, 0x00000000]⟩ := by
  set_option maxRecDepth 10000 in decide

/-- V14: an index the mode has not is no error here. -/
theorem test_getGlyph_any_index :
    last (after (.getGlyph 0x10 0x80 200 0) start) = some ⟨.ok, [0x000000C8, 0, 0x000000C8, 0]⟩ := by
  set_option maxRecDepth 10000 in decide

/-- V19 and V20. -/
theorem test_fontSize :
    last (after (.fontSize 2) start) = some ⟨.ok, [0x000E0008]⟩ ∧
    last (after (.fontSize 0) start) = some ⟨.invalidArgument, []⟩ := by decide

/-- V59: every cell through the palette. -/
theorem test_show :
    (after .showFrame (after (.setColor 0 ⟨0x12, 0x34, 0x56⟩) start)).frameLog =
      [⟨List.replicate 128 0x00123456, 16, 8, 64⟩] := by
  set_option maxRecDepth 20000 in decide

/-- V24: no surface, no frame. -/
theorem test_show_without_surface :
    exec .showFrame { start with surf := false } =
      .next (State.done { start with surf := false } .resourceCreationFailed []) := rfl

/-- V62: a packet with a reserved bit takes both its words. -/
theorem test_step_illegal : step (offered [0x10000105, 0, 0x30000000]) = .next ((offered []).illegalAfter [0x30000000]) :=
  rfl

/-- V3, V5 and V7. -/
theorem test_colors :
    Color.add ⟨200, 10, 0⟩ ⟨100, 10, 0⟩ = ⟨255, 20, 0⟩ ∧ Color.sub ⟨10, 200, 5⟩ ⟨20, 100, 5⟩ = ⟨0, 100, 0⟩ ∧
    Color.mul ⟨16, 2, 0⟩ ⟨16, 100, 9⟩ = ⟨255, 200, 0⟩ := by decide

/-- The examples of R100 and R102, and a fill (R104). -/
theorem test_sprite :
    (match spriteNew 2 2 (some [1, 2, 3, 4]) with
      | .ok p => spritePixel p 1 1
      | .error _ => none) = some 4 ∧
    spritePosition (spriteMove 4 (-6) ⟨1, 1, -3, 5, [7]⟩) = (1, -1) ∧
    (spriteMove 1 0 ⟨1, 1, 0x7FFFFFFF, 0, [7]⟩).x = 0x80000000 ∧ (spriteFill 9 ⟨1, 2, 0, 0, [7, 8]⟩).pix = [9, 9] := by
  decide

/-- P1's text and words. -/
theorem test_assemble :
    Asm.assemble 64000 ["; P1", "set_pixel 319, 199, 5", "show"] = some [0x10000005, 0x00C7013F, 0x30000000] := by
  set_option maxRecDepth 10000 in decide

/-- A frame word 0x00123456 as bytes (R46). -/
theorem test_frame_bytes : (Frame.mk [0x00123456] 1 1 4).bytes = [0x56, 0x34, 0x12, 0x00] := by decide

/-! ## Witnesses: for every statement with hypotheses, a state and operands that meet each of its clauses -/

theorem witness_DecodeOfEncodeIsTheCommand :
    (Instr.blitSprite (-1) 199 2 2 [1, 2, 3, 4]).WellFormed ∧ (Instr.blitSprite 0 0 0 65535 []).WellFormed ∧
      (Instr.setPalette []).WellFormed ∧ (Instr.setMode 0xFFFFFF).WellFormed := by decide

theorem witness_DecodedCommandIsWellFormed : decode [0x12000003, 0xFF030201, 7] = .command (.blitFull [1, 2, 3]) 2 := by
  decide

theorem witness_DecoderDropsOnlyIgnoredBits :
    decode [0x02000001, 0xFF102030] = .command (.setPalette [⟨0x10, 0x20, 0x30⟩]) 2 ∧
    decode [0x03000001, 0xFF102030] = .command (.setColor 1 ⟨0x10, 0x20, 0x30⟩) 2 ∧
    decode [0x12000001, 0xFFFFFF05] = .command (.blitFull [5]) 2 ∧
    decode [0x13000000, 1, 2, 0x00010001, 0xFFFFFF05] = .command (.blitSprite 1 2 1 1 [5]) 5 ∧
    decode [0x01FFFFFF] = .command (.setMode 0xFFFFFF) 1 := by decide

/-- Each opcode group, the counts 0 and 1, and a sprite packet before and after its DIM word. -/
theorem witness_PacketLengthIsRule58 :
    (0x30000000 : Word).toNat / 2 ^ 24 = 0x30 ∧ (0x26000000 : Word).toNat / 2 ^ 24 = 0x26 ∧
    (0x20000000 : Word).toNat / 2 ^ 24 = 0x20 ∧ (0x02000000 : Word).toNat / 2 ^ 24 = 0x02 ∧
    (0x12000001 : Word).toNat / 2 ^ 24 = 0x12 ∧ (0x13000000 : Word).toNat / 2 ^ 24 = 0x13 ∧
    ([0, 0] : List Word).length < 3 ∧ ([0, 0, 0x00020003, 9] : List Word) = 0 :: 0 :: 0x00020003 :: [9] ∧
    unknownOpcode ((0x00000000 : Word).toNat / 2 ^ 24) ∧ unknownOpcode ((0x31000000 : Word).toNat / 2 ^ 24) ∧
    unknownOpcode ((0xFFFFFFFF : Word).toNat / 2 ^ 24) := by decide

theorem witness_IllegalEncodingsRaiseIllegalCommand :
    (packetLen (offered [0x31000000, 7]).pending = some 1 ∧ unknownOpcode 0x31) ∧
    (packetLen (offered [0x10000105, 0]).pending = some 2 ∧ reservedBitSet [0x10000105, 0]) ∧
    (packetLen (offered [0x05000001]).pending = some 1 ∧ reservedBitSet [0x05000001]) ∧
    (packetLen (offered [0x26000000, 0x01000000]).pending = some 2 ∧ reservedBitSet [0x26000000, 0x01000000]) ∧
    (packetLen (offered [0x30000000]).pending = some 1 ∧ ¬ (unknownOpcode 0x30 ∨ reservedBitSet [0x30000000])) :=
  ⟨by decide, ⟨by decide, .inr (.inl (by decide))⟩, ⟨by decide, .inl (by decide)⟩,
    ⟨by decide, .inr (.inr (by decide))⟩, by decide, by
      rintro (h | h | h | h)
      · exact absurd h (by decide)
      · exact absurd h (by decide)
      · exact absurd h (by decide)
      · exact absurd h (by decide)⟩

theorem witness_IllegalEncodingsRaiseIllegalCommand_ignored_bits :
    (0xFF123456 : Word).toNat % 2 ^ 24 = (0x00123456 : Word).toNat % 2 ^ 24 ∧
      3 ≤ 4 * ([0xFF030201] : List Word).length ∧
      ∀ k < 3, ([0xFF030201] : List Word)[k / 4]?.map (fun w => w.toNat / 2 ^ (8 * (k % 4)) % 256) =
        ([0x00030201] : List Word)[k / 4]?.map (fun w => w.toNat / 2 ^ (8 * (k % 4)) % 256) := by decide

theorem witness_PayloadBytesAreLittleEndian : 4 < 5 ∧ 5 ≤ 4 * ([1, 2] : List Word).length ∧ 7 < 4 * ((5 + 3) / 4) := by
  decide

theorem witness_StepRunsTheDecodedCommand : decode (offered [0x30000000, 5]).pending = .command .showFrame 1 := by decide

theorem witness_StepRunsTheEncodedCommand :
    (Instr.setPixel 5 319 199).WellFormed ∧
      (offered [0x10000005, 0x00C7013F, 9]).pending = encode (.setPixel 5 319 199) ++ [9] := by decide

theorem witness_IncompletePacketIsHeld :
    packetLen (offered []).pending = none ∧ (offered []).port = [] ∧
    packetLen (offered [0x13000000, 0, 0]).pending = none ∧
    packetLen (offered [0x10000005]).pending = some 2 ∧ (offered [0x10000005]).pending.length < 2 := by decide

theorem witness_EveryPacketGetsOneCompletion :
    packetLen (offered [0x14000000, 0x00010001]).pending = some 1 ∧ 1 ≤ (offered [0x14000000, 0x00010001]).pending.length := by
  decide

theorem witness_StreamOfCommandsCompletes :
    (∀ i ∈ [Instr.setCursor 1 2, .putchar 0x41 1 0, .showFrame], i.WellFormed) ∧
      (offered [0x22000000, 0x00020001, 0x21000141, 0x30000000, 8]).packetBuf = [] ∧
      (offered [0x22000000, 0x00020001, 0x21000141, 0x30000000, 8]).port =
        [Instr.setCursor 1 2, .putchar 0x41 1 0, .showFrame].flatMap encode ++ [8] := by decide

theorem witness_ErrorsLeaveTheStateAsItWas :
    decode (offered [0x10000105, 0]).pending = .illegal .reservedBit 2 ∧ exec (.setMode 0) start = .next (start.done .unknownMode []) ∧
      (start.done .unknownMode []).completions = start.completions ++ [⟨.unknownMode, []⟩] ∧ Status.unknownMode ≠ .ok :=
  ⟨by decide, rfl, rfl, by decide⟩

/-- A refused SET_MODE, the one error that also clears SURF. -/
theorem witness_ErrorsLeaveTheStateAsItWas_refused (h : Config.surfaceAcquire start.acquisitions = false) :
    ∃ t, exec (.setMode 2) start = .next t ∧ t.completions = start.completions ++ [⟨.resourceCreationFailed, []⟩] :=
  ⟨start.switchMode 2 ⟨640, 480, 16, 3⟩ false, by rw [← h]; rfl, rfl⟩

theorem witness_StatusIsTheFirstErrorThatApplies :
    decode (offered [0x10000101, 0x00630063]).pending = .illegal .reservedBit 2 ∧ start.pal.length = start.NC ∧ errorCauses .showFrame start = [] ∧
      errorCauses (.blitFull [16]) start = [.outOfRange, .invalidArgument] := by decide

theorem witness_ReadCommandsChangeNothing : readsOnly (.getPixel 0 8) ∧ readsOnly (.getGlyph 0x10 0 0 0) := by decide

theorem witness_PaletteAndVramAreIndependent :
    paletteCommand .resetPalette ∧ exec .resetPalette start = .next (after .resetPalette start) ∧
      vramCommand (.getPixel 0 0) ∧ exec (.getPixel 0 0) start = .next (after (.getPixel 0 0) start) :=
  ⟨by decide, rfl, by decide, rfl⟩

theorem witness_LaterWordsDoNotAffectACommand : exec .getFont start = .next (after .getFont start) := rfl

theorem witness_LogsAreNeverReadAndOnlyGrow : exec .showFrame start = .next (after .showFrame start) := rfl

/-- A command that writes each of the registers named. -/
theorem witness_OnlyTheNamedCommandsWriteEachRegister :
    (∃ t, exec (.setMode 2) start = .next t ∧ t.acquisitions ≠ start.acquisitions) ∧
    (after (.setFont 0x11) start).font ≠ start.font ∧
    (after (.setCursor 1 0) start).curCol ≠ start.curCol ∧ (after (.setCursor 0 1) start).curRow ≠ start.curRow ∧
    (after (.setColor 0 ⟨1, 1, 1⟩) start).pal ≠ start.pal ∧ (after (.setPixel 5 0 0) start).vram ≠ start.vram ∧
    (after .showFrame start).portLog ≠ start.portLog := by
  refine ⟨⟨_, rfl, ?_⟩, ?_⟩
  · show (start.switchMode 2 ⟨640, 480, 16, 3⟩ (Config.surfaceAcquire start.acquisitions)).acquisitions ≠ _
    cases Config.surfaceAcquire start.acquisitions <;> decide
  · set_option maxRecDepth 10000 in decide

theorem witness_StepKeepsTheInvariant : start.Inv ∧ step start = .next start := ⟨start_inv, rfl⟩

theorem witness_EveryReachableStateMeetsTheInvariant : Reachable (State.reset.hostSend [0x30000000]) :=
  .send _ _ (.build Config.default _ (State.build?_eq_some.2 ⟨Config.default_ok, rfl⟩))

theorem witness_EveryVramCellIndexesThePalette : Reachable (State.resetWith (tiny 9 3 256) 0 0) :=
  .build _ _ (State.build?_eq_some.2 ⟨tiny_ok, rfl⟩)

theorem witness_PresentedFramesAreSnapshots :
    step (offered [0x30000000]) = .next (stepped (offered [0x30000000])) ∧
      decode (offered [0x30000000]).pending = .command .showFrame 1 := ⟨rfl, by decide⟩

/-- Two modes of different size: cell 127 is the last of one and not of the other. -/
theorem witness_ResolveIsALookupPerCell :
    let s := start
    let s' := after (.setFont 0x11) (after (.setPixel 3 0 0) start)
    127 < s.W * s.H ∧ 127 < s'.W * s'.H ∧ s.vramRead 127 = s'.vramRead 127 ∧
      s.pal[(s.vramRead 127).toNat]? = s'.pal[(s'.vramRead 127).toNat]? := by
  set_option maxRecDepth 10000 in decide

theorem witness_ConfigurationIsWellFormed :
    State.build? (tiny 9 3 256) = some (State.resetWith (tiny 9 3 256) 0 0) ∧
      (tiny 9 3 256).mode? 7 = some ⟨9, 3, 256, 9⟩ ∧ (tiny 9 3 256).font? 9 = some ⟨8, 1, .unstated 256⟩ :=
  ⟨State.build?_eq_some.2 ⟨tiny_ok, rfl⟩, by decide, by decide⟩

theorem witness_ResetStateIsRule37 :
    State.build? (tiny 9 3 256) = some (State.resetWith (tiny 9 3 256) 0 0) ∧ 15 < 16 ∧ 16 ≤ 255 ∧ 255 < 256 :=
  ⟨State.build?_eq_some.2 ⟨tiny_ok, rfl⟩, by decide⟩

theorem witness_ResetMeetsTheInvariant :
    State.build? (tiny 9 3 256) = some (State.resetWith (tiny 9 3 256) 0 0) ∧ start.config.ok :=
  ⟨State.build?_eq_some.2 ⟨tiny_ok, rfl⟩, start_configOk⟩

theorem witness_AddressMapIsABijection :
    15 < start.W ∧ 7 < start.H ∧ start.addr 15 7 = start.addr 15 7 ∧ 127 < start.W * start.H := by decide

theorem witness_GridCellsLieInsideTheFramebuffer : start.Inv ∧ 1 < start.gridCols ∧ 3 < start.gridRows :=
  ⟨start_inv, by decide, by decide⟩

/-- The cursor at (0, 0), in the last column, in the last cell, and outside the grid. -/
theorem witness_AdvanceWrapsColumnThenRow :
    start.config.ok ∧ 0 + 1 < start.gridCols ∧ (start.gridCols ≤ 1 + 1 ∧ 0 + 1 < start.gridRows) ∧
    (start.gridCols ≤ 1 + 1 ∧ start.gridRows ≤ 3 + 1) ∧ (1 < start.gridCols ∧ 3 < start.gridRows) ∧
    (start.setCursor 1 3).curCol.toNat = 1 ∧ (start.setCursor 1 3).curRow.toNat = 3 :=
  ⟨start_configOk, by decide⟩

theorem witness_VramWritesKeepTheCanonicalForm : Memory.wf start.vram ∧ 1 < ([7, 8] : List Byte).length ∧ 128 ≤ 128 :=
  ⟨start_inv.vramWf, by decide⟩

theorem witness_SetModeEntersTheModeOrKeepsAllButSurf :
    (offered [0x01000002, 7]).pending = 0x01000002 :: [7] ∧ (0x01000002 : Word).extractLsb' 24 8 = 0x01 ∧
      start.config.mode? 0 = none ∧ start.config.mode? 4 = none ∧ start.config.mode? 2 = some ⟨640, 480, 16, 3⟩ ∧
      start.config.ok :=
  ⟨by decide, by decide, by decide, by decide, by decide, start_configOk⟩

theorem witness_SetPaletteLoadsFromEntryZero :
    (offered [0x02000001, 7, 8]).pending = 0x02000001 :: ([7] ++ [8]) ∧ (0x02000001 : Word).extractLsb' 24 8 = 0x02 ∧
      ([7] : List Word).length = ((0x02000001 : Word).extractLsb' 0 24).toNat ∧
      start.NC < (List.replicate 17 Color.black).length ∧ (List.replicate 16 Color.black).length ≤ start.NC := by decide

theorem witness_SetColorWritesOneEntry :
    (offered [0x03000001, 7]).pending = 0x03000001 :: 7 :: [] ∧ (0x03000001 : Word).extractLsb' 24 8 = 0x03 ∧
      start.NC ≤ (16 : Byte).toNat ∧ start.pal.length = start.NC ∧ (15 : Byte).toNat < start.NC := by decide

theorem witness_GetColorAnswersThePackedEntry :
    (offered [0x04000100]).pending = 0x04000100 :: [] ∧ (0x04000100 : Word).extractLsb' 24 8 = 0x04 ∧
      start.NC ≤ (16 : Byte).toNat ∧ start.pal.length = start.NC ∧ (15 : Byte).toNat < start.NC := by decide

theorem witness_ResetPaletteRestoresTheDefault :
    (offered [0x05000000]).pending = 0x05000000 :: [] ∧ (0x05000000 : Word).extractLsb' 24 8 = 0x05 ∧
      start1.config.mode? start1.mode = some ⟨320, 200, 256, 1⟩ ∧ start1.config.ok :=
  ⟨by decide, by decide, by decide, Config.default_ok⟩

theorem witness_RotatingThePaletteFullyRestoresIt : start1.pal.length = start1.NC ∧ 255 < start1.NC := by
  set_option maxRecDepth 10000 in decide

theorem witness_SetPixelWritesOneCell :
    (offered [0x10000001, 7]).pending = 0x10000001 :: 7 :: [] ∧ (0x10000001 : Word).extractLsb' 24 8 = 0x10 ∧
      start.W ≤ (16 : BitVec 16).toNat ∧ start.H ≤ (8 : BitVec 16).toNat ∧ start.NC ≤ (16 : Byte).toNat ∧
      (15 : BitVec 16).toNat < start.W ∧ (7 : BitVec 16).toNat < start.H ∧ (15 : Byte).toNat < start.NC := by decide

theorem witness_GetPixelAnswersTheCell :
    (offered [0x11000000, 7]).pending = 0x11000000 :: 7 :: [] ∧ (0x11000000 : Word).extractLsb' 24 8 = 0x11 ∧
      start.W ≤ (16 : BitVec 16).toNat ∧ start.H ≤ (8 : BitVec 16).toNat ∧
      (15 : BitVec 16).toNat < start.W ∧ (7 : BitVec 16).toNat < start.H := by decide

theorem witness_BlitFullReplacesEveryCell :
    (offered [0x12000005, 7, 8, 9]).pending = 0x12000005 :: ([7, 8] ++ [9]) ∧
      (0x12000005 : Word).extractLsb' 24 8 = 0x12 ∧
      ([7, 8] : List Word).length = (((0x12000005 : Word).extractLsb' 0 24).toNat + 3) / 4 ∧
      ([0] : List Byte).length ≠ start.W * start.H ∧ (List.replicate 128 (16 : Byte)).length = start.W * start.H ∧
      (∃ p ∈ List.replicate 128 (16 : Byte), start.NC ≤ p.toNat) ∧
      (List.replicate 128 (15 : Byte)).length = start.W * start.H ∧
      ∀ p ∈ List.replicate 128 (15 : Byte), p.toNat < start.NC := by
  set_option maxRecDepth 10000 in decide

theorem witness_BlitSpriteCopiesExactlyTheIntersection :
    (offered [0x13000000, 1, 2, 0x00010005, 7, 8, 9]).pending = 0x13000000 :: 1 :: 2 :: 0x00010005 :: ([7, 8] ++ [9]) ∧
      (0x13000000 : Word).extractLsb' 24 8 = 0x13 ∧
      ([7, 8] : List Word).length =
        (((0x00010005 : Word).extractLsb' 0 16).toNat * ((0x00010005 : Word).extractLsb' 16 16).toNat + 3) / 4 ∧
      (0 : BitVec 16).toNat = 0 ∧ (1 : BitVec 16).toNat ≠ 0 ∧ (2 : BitVec 16).toNat ≠ 0 ∧
      (∃ p ∈ ([0, 16] : List Byte), start.NC ≤ p.toNat) ∧
      ([0, 15] : List Byte).length = (1 : BitVec 16).toNat * (2 : BitVec 16).toNat ∧
      (∀ p ∈ ([0, 15] : List Byte), p.toNat < start.NC) ∧ 15 < start.W ∧ 7 < start.H := by decide

theorem witness_PutcharAtDrawsTheClippedGlyph :
    (offered [0x20000141, 7, 8]).pending = 0x20000141 :: 7 :: 8 :: [] ∧ (0x20000141 : Word).extractLsb' 24 8 = 0x20 ∧
      start.NC ≤ (16 : Byte).toNat ∧ start.config.font? start.font = some ⟨8, 2, Config.testRom⟩ ∧
      (15 : Byte).toNat < start.NC ∧ start.config.ok :=
  ⟨by decide, by decide, by decide, rfl, by decide, start_configOk⟩

theorem witness_PutcharDrawsAtTheCursorAndAdvances :
    (offered [0x21000141]).pending = 0x21000141 :: [] ∧ (0x21000141 : Word).extractLsb' 24 8 = 0x21 ∧
      start.NC ≤ (16 : Byte).toNat ∧ start.config.font? start.font = some ⟨8, 2, Config.testRom⟩ ∧
      (15 : Byte).toNat < start.NC ∧ start.config.ok :=
  ⟨by decide, by decide, by decide, rfl, by decide, start_configOk⟩

theorem witness_SetCursorWrapsIntoTheGrid :
    (offered [0x22000000, 7]).pending = 0x22000000 :: 7 :: [] ∧ (0x22000000 : Word).extractLsb' 24 8 = 0x22 := by decide

theorem witness_GetCursorAnswersTheStoredCursor :
    (offered [0x23000000]).pending = 0x23000000 :: [] ∧ (0x23000000 : Word).extractLsb' 24 8 = 0x23 := by decide

/-- A font that fits, one too wide, one too high. -/
theorem witness_SetFontTakesAKnownFontThatFits :
    (offered [0x24000011]).pending = 0x24000011 :: [] ∧ (0x24000011 : Word).extractLsb' 24 8 = 0x24 ∧
      start.config.font? 0x12 = none ∧ start.config.font? 0x11 = some ⟨9, 2, Config.testRom⟩ ∧
      start.config.font? 2 = some ⟨8, 14, .unstated (14 * 256)⟩ := by
  set_option maxRecDepth 20000 in decide

theorem witness_GetFontAnswersTheActiveFont :
    (offered [0x25000000]).pending = 0x25000000 :: [] ∧ (0x25000000 : Word).extractLsb' 24 8 = 0x25 := by decide

theorem witness_GlyphIsRasterizedMsbFirst :
    start.config.ok ∧ start.config.font? 0x11 = some ⟨9, 2, Config.testRom⟩ ∧ 1 < 2 ∧ 8 < 9 ∧
      start.config.font? 1 = some ⟨8, 8, .unstated (8 * 256)⟩ :=
  ⟨start_configOk, rfl, by decide, by decide, by decide⟩

theorem witness_GetGlyphAnswersThePackedGlyph :
    (offered [0x26000141, 0x11]).pending = 0x26000141 :: 0x11 :: [] ∧ (0x26000141 : Word).extractLsb' 24 8 = 0x26 ∧
      start.config.font? 0 = none ∧ start.config.font? 0x11 = some ⟨9, 2, Config.testRom⟩ ∧ start.config.ok :=
  ⟨by decide, by decide, by decide, rfl, start_configOk⟩

theorem witness_FontSizeAnswersHeightAndWidth :
    (offered [0x27000011]).pending = 0x27000011 :: [] ∧ (0x27000011 : Word).extractLsb' 24 8 = 0x27 ∧
      start.config.font? 0 = none ∧ start.config.font? 0x11 = some ⟨9, 2, Config.testRom⟩ ∧ 2 < 65536 ∧ start.config.ok :=
  ⟨by decide, by decide, by decide, rfl, by decide, start_configOk⟩

/-- A font too high for the field of FONT_SIZE's response, in a configuration that is well formed. -/
theorem witness_FontSizeAnswersHeightAndWidth_tall :
    let c := { tiny 8 1 16 with FONT_TABLE := [(9, ⟨8, 1, .unstated 256⟩), (10, ⟨9, 65536, .unstated (65536 * 256)⟩)] }
    c.ok ∧ c.font? 10 = some ⟨9, 65536, .unstated (65536 * 256)⟩ := by decide

theorem witness_ShowPresentsTheResolvedFrame :
    ((offered [0x30000000]).pending = 0x30000000 :: [] ∧ (0x30000000 : Word).extractLsb' 24 8 = 0x30) ∧
      State.surf { start with surf := false } = false ∧ start.surf = true ∧ start.Inv ∧ 127 < start.W * start.H :=
  ⟨by decide, rfl, rfl, start_inv, by decide⟩

theorem witness_FrameBytesAreLittleEndian :
    (Frame.mk [0x00000000, 0x00123456] 2 1 8).pixels[1]? = some (Color.mk 0x12 0x34 0x56).toPacked := by decide

theorem witness_ColorArithmeticSaturates : ∃ ch : Color → Byte, ch = Color.r ∨ ch = Color.g ∨ ch = Color.b :=
  ⟨Color.b, .inr (.inr rfl)⟩

theorem witness_ColorInverseLawHoldsUpToClamping : ∃ ch : Color → Byte, ch = Color.r ∨ ch = Color.g ∨ ch = Color.b :=
  ⟨Color.g, .inr (.inl rfl)⟩

theorem witness_SpriteConstructionChecksItsSize :
    (0 : BitVec 16).toNat < 1 ∧ ([1, 2, 3] : List Byte).length ≠ (2 : BitVec 16).toNat * (2 : BitVec 16).toNat ∧
      1 ≤ (1 : BitVec 16).toNat ∧ ([7] : List Byte).length = (1 : BitVec 16).toNat * (1 : BitVec 16).toNat ∧
      start.config.font? 4 = some ⟨9, 16, .unstated (16 * 256)⟩ ∧ 16 < 2 ^ 16 ∧ start.config.ok :=
  ⟨by decide, by decide, by decide, by decide, by decide, by decide, start_configOk⟩

theorem witness_SpritePacketCarriesTheDescriptor : spriteOk ⟨2, 3, -1, 199, [1, 2, 3, 3, 2, 1]⟩ := by decide

theorem witness_PseudoInstructionsExpandAsShown :
    (0 : Int) ≤ 255 ∧ (255 : Int) < 256 ∧ 0 < 128 ∧ ([7, 8] : List Word).length < 2 ^ 24 ∧ (-1 : Int) < 0 ∧
      (256 : Int) ≤ 256 := by decide

end Tests
end Sys2Proof
end

section
/-! PROOFS. The byte order of payloads and of frames (20_memory.md R45, R46). Both are `bytesOf` word after word, so both
follow from where byte `k` of a word sequence lies. -/

namespace Sys2Proof
namespace Operand

/-! ### Where byte `k` of a word sequence lies -/

/-- A byte field as the shifted word cut to eight bits, the form in which R45 states it. -/
theorem extract_byte_eq_ofNat_div (w : Word) (s : Nat) : w.extractLsb' s 8 = BitVec.ofNat 8 (w.toNat / 2 ^ s) :=
  extract_eq s 8 w _ (BitVec.toNat_ofNat _ _).symm

theorem getElem?_flatMap_bytesOf_eq_ofNat_div (ws : List Word) (k : Nat) :
    (ws.flatMap bytesOf)[k]? = ws[k / 4]?.map (fun w => BitVec.ofNat 8 (w.toNat / 2 ^ (8 * (k % 4)))) := by
  simp only [getElem?_flatMap_bytesOf, extract_byte_eq_ofNat_div]

/-- The bytes `4i` to `4i + 3` of a word sequence are those of word `i`. -/
theorem getElem?_flatMap_bytesOf_of_word {ws : List Word} {i : Nat} {w : Word} (hw : ws[i]? = some w) {j : Nat}
    (hj : j < 4) : (ws.flatMap bytesOf)[4 * i + j]? = (bytesOf w)[j]? := by
  have hdiv : (4 * i + j) / 4 = i := by omega
  have hmod : (4 * i + j) % 4 = j := by omega
  have hword : ([w].flatMap bytesOf)[j]? = [w][j / 4]?.map (fun w => w.extractLsb' (8 * (j % 4)) 8) :=
    getElem?_flatMap_bytesOf [w] j
  rw [Nat.div_eq_of_lt hj, Nat.mod_eq_of_lt hj, List.flatMap_singleton] at hword
  rw [getElem?_flatMap_bytesOf, hdiv, hmod, hw, hword, List.getElem?_cons_zero]

/-! ### Payloads -/

theorem ceil4_le_of_le_mul {n m : Nat} (h : n ≤ 4 * m) : ceil4 n ≤ m := by
  unfold ceil4
  omega

theorem getElem?_unpack {n k : Nat} (ws : List Word) (h : k < n) : (unpack n ws)[k]? = (ws.flatMap bytesOf)[k]? :=
  List.getElem?_take_of_lt h

/-- A packed byte is the byte given, and past the bytes given it is zero, up to the end of the last word. -/
theorem getElem?_flatMap_bytesOf_pack (bs : List Byte) {k : Nat} (h : k < 4 * (pack bs).length) :
    ((pack bs).flatMap bytesOf)[k]? = some (bs.getD k 0) := by
  obtain ⟨m, hm⟩ := flatMap_bytesOf_pack bs
  have hlen : 4 * (pack bs).length = bs.length + m := by
    rw [← flatMap_bytesOf_length, hm, List.length_append, List.length_replicate]
  rw [hm]
  rcases Nat.lt_or_ge k bs.length with hk | hk
  · rw [List.getElem?_append_left hk, List.getD_eq_getElem _ _ hk, List.getElem?_eq_getElem hk]
  · rw [List.getElem?_append_right hk, List.getD_eq_default _ _ hk, List.getElem?_replicate_of_lt (by omega)]

/-! ### Packed colors -/

/-- A packed color is the word of the bytes b, g, r, 0, so these are its bytes in a frame (R46). -/
theorem bytesOf_toPacked (c : Color) : bytesOf c.toPacked = [c.b, c.g, c.r, 0] :=
  bytesOf_packWord c.b c.g c.r 0

end Operand

open Operand Machine

/-- Settles O7: reading is the place of byte `k` in the words, packing is that place in the packed words, whose bytes are
the given ones and the padding. -/
theorem payloadBytesAreLittleEndian : Obligations.PayloadBytesAreLittleEndian := by
  refine ⟨fun ws n k hk _ => ?read, fun ws n hn => ?readLength, fun bs => ?packLength, fun bs k hk => ?packed⟩
  case read => rw [getElem?_unpack ws hk, getElem?_flatMap_bytesOf_eq_ofNat_div]
  case readLength => exact unpack_length n ws (ceil4_le_of_le_mul hn)
  case packLength => exact pack_length bs
  case packed =>
    have hwords : k < 4 * (pack bs).length := (pack_length bs).symm ▸ hk
    rw [← getElem?_flatMap_bytesOf_eq_ofNat_div, getElem?_flatMap_bytesOf_pack bs hwords]

/-- Settles O53: a frame's bytes are those of its words in turn, and a packed color's are b, g, r, 0. -/
theorem frameBytesAreLittleEndian : Obligations.FrameBytesAreLittleEndian := by
  refine ⟨fun s => rfl, fun f => ⟨flatMap_bytesOf_length f.pixels, fun i c hc => ?_⟩⟩
  have hbyte (j : Nat) (hj : j < 4) : f.bytes[4 * i + j]? = [c.b, c.g, c.r, 0][j]? :=
    (getElem?_flatMap_bytesOf_of_word hc hj).trans (congrArg (·[j]?) (bytesOf_toPacked c))
  exact ⟨hbyte 0 (by omega), hbyte 1 (by omega), hbyte 2 (by omega), hbyte 3 (by omega)⟩

end Sys2Proof
end

section
/-! PROOFS. The packet's length and the illegal encodings (30_encoding.md R58, R70). The obligations speak of the opcode as a
number; the opcode map and the formats speak of rows. The two readings are joined here once: an opcode is unknown when it
has no row, and the opcodes with a reserved field are those of the formats that have it. -/

namespace Sys2Proof

open Operand Machine

/-! ### The opcode map by number -/

theorem opcode_eq_ofNat {w : Word} {o : Nat} (h : w.toNat / 2 ^ 24 = o) : opcode w = BitVec.ofNat 8 o := by
  rw [← h, ← opcode_toNat, BitVec.ofNat_toNat, BitVec.setWidth_eq]

theorem mem_opcodeMap_of_rowOf {o : Byte} {op : Op} {f : Format} (h : rowOf o = some (op, f)) :
    (o, op, f) ∈ opcodeMap := by
  obtain ⟨row, hfind, hrow⟩ := Option.map_eq_some_iff.1 h
  have hkey : row.1 = o := by simpa using List.find?_some hfind
  rw [← hkey, ← hrow]
  exact List.mem_of_find?_eq_some hfind

/-- The opcodes R70 lists as unknown are those R68 gives no row. -/
theorem rowOf_eq_none_iff (o : Byte) : rowOf o = none ↔ unknownOpcode o.toNat := by
  revert o
  decide

theorem unknownOpcode_iff (ws : List Word) :
    unknownOpcode ((wordAt ws 0).toNat / 2 ^ 24) ↔ rowOf (opcode (wordAt ws 0)) = none := by
  rw [rowOf_eq_none_iff, opcode_toNat]

/-- The opcodes with a reserved field, as R70 lists them, are those whose format has the field (R60, R65). -/
theorem reserved_opcodes_iff_format : ∀ row ∈ opcodeMap,
    let o := row.1.toNat
    let f := row.2.2
    (o = 0x05 ∨ o = 0x11 ∨ o = 0x13 ∨ o = 0x22 ∨ o = 0x23 ∨ o = 0x25 ∨ o = 0x30 ↔ f = .n ∨ f = .w ∨ f = .s) ∧
    (o = 0x03 ∨ o = 0x04 ∨ o = 0x10 ↔ f = .i8 ∨ f = .i8w) ∧
    (o = 0x26 ↔ f = .gf) := by decide

/-! ### The length of a packet -/

theorem packetLen_of_header {w0 : Word} {rest : List Word} {o : Nat} {op : Op} {f : Format}
    (ho : w0.toNat / 2 ^ 24 = o) (hrow : rowOf (BitVec.ofNat 8 o) = some (op, f)) :
    packetLen (w0 :: rest) = formatLen f (w0 :: rest) :=
  packetLen_of_row (List.cons_ne_nil _ _) (by rw [wordAt_cons_zero, opcode_eq_ofNat ho, hrow])

theorem ne_nil_of_packetLen {ws : List Word} {n : Nat} (h : packetLen ws = some n) : ws ≠ [] := by
  rintro rfl
  exact absurd h nofun

theorem packetLen_of_unknownOpcode {ws : List Word} (hne : ws ≠ [])
    (h : unknownOpcode ((wordAt ws 0).toNat / 2 ^ 24)) : packetLen ws = some 1 :=
  packetLen_of_unlisted hne ((unknownOpcode_iff ws).1 h)

theorem packetLen_pos {ws : List Word} {n : Nat} (hl : packetLen ws = some n) : 0 < n := by
  have hne := ne_nil_of_packetLen hl
  cases hrow : rowOf (opcode (wordAt ws 0)) with
  | none =>
    cases (packetLen_of_unlisted hne hrow).symm.trans hl
    exact Nat.one_pos
  | some row => exact formatLen_pos ((packetLen_of_row hne hrow).symm.trans hl)

/-- Settles O5: the opcode names its row, the row's format its length, and an unknown opcode has no row. -/
theorem packetLengthIsRule58 : Obligations.PacketLengthIsRule58 := by
  intro w0 rest o count
  have hcount : (low24 w0).toNat = count := low24_toNat w0
  refine ⟨?one, ?two, ?three, ?colors, ?bytes, ?sprite, ?unknown⟩
  case one => rintro (ho | ho | ho | ho | ho | ho | ho | ho | ho) <;> exact packetLen_of_header ho rfl
  case two => rintro (ho | ho | ho | ho | ho) <;> exact packetLen_of_header ho rfl
  case three => exact fun ho => packetLen_of_header ho rfl
  case colors => exact fun ho => hcount ▸ packetLen_of_header ho rfl
  case bytes => exact fun ho => hcount ▸ packetLen_of_header ho rfl
  case sprite =>
    intro ho
    have hlen : packetLen (w0 :: rest) = formatLen .s (w0 :: rest) := packetLen_of_header ho rfl
    refine ⟨fun hshort => hlen.trans (if_pos (Nat.succ_lt_succ hshort)), ?_⟩
    rintro w1 w2 w3 more rfl
    have hlong : ¬ (w0 :: w1 :: w2 :: w3 :: more).length < 4 := by simp
    rw [hlen, ← lowHalf_toNat, ← highHalf_toNat, formatLen, if_neg hlong]
    rfl
  case unknown => exact packetLen_of_unknownOpcode (List.cons_ne_nil _ _)

/-! ### Which packets are illegal -/

/-- The reserved bits stand in words the packet's length covers. -/
theorem reservedZero_take {f : Format} {ws : List Word} {n : Nat} (h : formatLen f ws = some n) :
    reservedZero f (ws.take n) = reservedZero f ws := by
  have hw0 : wordAt (ws.take n) 0 = wordAt ws 0 := wordAt_take (formatLen_pos h)
  cases f
  case gf =>
    cases h
    rw [reservedZero, reservedZero, wordAt_take Nat.one_lt_two]
  all_goals simp only [reservedZero, hw0]

/-- A listed opcode's reserved bits, as R70 lists them by opcode, are those its format reserves. -/
theorem reservedBitSet_iff {ws : List Word} {op : Op} {f : Format} (h : rowOf (opcode (wordAt ws 0)) = some (op, f)) :
    reservedBitSet ws ↔ reservedZero f ws = false := by
  obtain ⟨hlow24, hmid16, htop8⟩ := reserved_opcodes_iff_format _ (mem_opcodeMap_of_rowOf h)
  simp only [opcode_toNat] at hlow24 hmid16 htop8
  rw [reservedBitSet, hlow24, hmid16, htop8, ← low24_toNat, ← mid16_toNat, ← top8_toNat (wordAt ws 1)]
  cases f <;> simp [reservedZero, BitVec.toNat_eq]

/-- A packet cut off the stream is illegal exactly when the stream begins with an encoding R70 lists. -/
theorem decodePacket_illegal_iff {ws : List Word} {n : Nat} (hl : packetLen ws = some n) :
    (∃ why, decodePacket (ws.take n) = .inl why) ↔
      unknownOpcode ((wordAt ws 0).toNat / 2 ^ 24) ∨ reservedBitSet ws := by
  have hw0 : wordAt (ws.take n) 0 = wordAt ws 0 := wordAt_take (packetLen_pos hl)
  rw [unknownOpcode_iff]
  cases hrow : rowOf (opcode (wordAt ws 0)) with
  | none => exact iff_of_true ⟨_, decodePacket_of_unlisted (by rw [hw0, hrow])⟩ (.inl rfl)
  | some row =>
    have hlen : formatLen row.2 ws = some n := (packetLen_of_row (ne_nil_of_packetLen hl) hrow).symm.trans hl
    rw [decodePacket_of_row (by rw [hw0, hrow]), reservedZero_take hlen, reservedBitSet_iff hrow]
    cases reservedZero row.2 ws <;> simp

/-! ### The ignored bits -/

theorem extract_congr {s n : Nat} {p q : Word} (h : p.toNat / 2 ^ s % 2 ^ n = q.toNat / 2 ^ s % 2 ^ n) :
    p.extractLsb' s n = q.extractLsb' s n :=
  extract_eq s n p _ (h.trans (extract_toNat s n q).symm)

/-- A COLOR word's top byte is ignored (R61). -/
theorem fromPacked_congr {p q : Word} (h : p.toNat % 2 ^ 24 = q.toNat % 2 ^ 24) :
    Color.fromPacked p = Color.fromPacked q := by
  have hr : p.extractLsb' 16 8 = q.extractLsb' 16 8 := extract_congr (by omega)
  have hg : p.extractLsb' 8 8 = q.extractLsb' 8 8 := extract_congr (by omega)
  have hb : p.extractLsb' 0 8 = q.extractLsb' 0 8 := extract_congr (by omega)
  rw [Color.fromPacked, hr, hg, hb, Color.fromPacked]

theorem getElem?_unpack_eq_ofNat_mod {n k : Nat} (ws : List Word) (h : k < n) :
    (unpack n ws)[k]? = (ws[k / 4]?.map (fun w => w.toNat / 2 ^ (8 * (k % 4)) % 256)).map (BitVec.ofNat 8) := by
  rw [getElem?_unpack ws h, getElem?_flatMap_bytesOf, Option.map_map]
  congr 1
  funext w
  exact extract_eq _ 8 w _ (by simp)

/-- Settles O6: an illegal packet is one the decoder cuts off and refuses, every other whole packet is a command, and the
fields the decoder reads leave out the ignored bits. -/
theorem illegalEncodingsRaiseIllegalCommand : Obligations.IllegalEncodingsRaiseIllegalCommand := by
  refine ⟨fun s n hl hn => ⟨fun hbad => ?illegal, fun hunknown => ?oneWord, fun hok => ?command⟩,
    fun p q h => fromPacked_congr h, fun n ws ws' hn hn' h => ?payload⟩
  case illegal =>
    obtain ⟨why, hwhy⟩ := (decodePacket_illegal_iff hl).2 hbad
    exact step_of_illegal (decode_of_illegal hl hn hwhy)
  case oneWord =>
    have hone := packetLen_of_unknownOpcode (ne_nil_of_packetLen hl) hunknown
    exact Option.some.inj (hl.symm.trans hone)
  case command =>
    cases hd : decodePacket ((s.packetBuf ++ s.port).take n) with
    | inl why => exact absurd ((decodePacket_illegal_iff hl).1 ⟨why, hd⟩) hok
    | inr i => exact ⟨i, decode_of_command hl hn hd⟩
  case payload =>
    have hlen : (unpack n ws).length = n := unpack_length n ws (ceil4_le_of_le_mul hn)
    have hlen' : (unpack n ws').length = n := unpack_length n ws' (ceil4_le_of_le_mul hn')
    refine List.ext_getElem? fun k => ?_
    rcases Nat.lt_or_ge k n with hk | hk
    · rw [getElem?_unpack_eq_ofNat_mod ws hk, getElem?_unpack_eq_ofNat_mod ws' hk, h k hk]
    · rw [List.getElem?_eq_none (hlen.trans_le hk), List.getElem?_eq_none (hlen'.trans_le hk)]

end Sys2Proof
end

section
/-! PROOFS. Colors (40_color.md R77 to R89). Every operator is a byte operation applied to each channel on its own (R88),
and a scalar meets a color as the color with that value in every channel (R76). So a statement about channels is one
about the three saturating byte operations, and its scalar case is its color case at `ofScalar s`. -/

namespace Sys2Proof
namespace Color

/-! ### The packed form -/

/-- The second half of R79. The three bytes of a word put together again are the word without its top byte. -/
theorem toPacked_fromPacked_toNat (p : Word) : (fromPacked p).toPacked.toNat = p.toNat % 2 ^ 24 := by
  rw [Operand.toPacked_toNat, fromPacked, Operand.extract_toNat, Operand.extract_toNat, Operand.extract_toNat]
  omega

/-! ### The saturating byte operations as numbers -/

theorem ofNat_min_255_toNat (n : Nat) : (BitVec.ofNat 8 (min n 255)).toNat = min n 255 := by
  rw [BitVec.toNat_ofNat]
  omega

theorem satAdd_toNat (a b : Byte) : (satAdd a b).toNat = min (a.toNat + b.toNat) 255 := ofNat_min_255_toNat _

theorem satMul_toNat (a b : Byte) : (satMul a b).toNat = min (a.toNat * b.toNat) 255 := ofNat_min_255_toNat _

/-- The difference clamped in ℤ is the truncated one of the naturals. -/
theorem satSub_toNat (a b : Byte) : (satSub a b).toNat = a.toNat - b.toNat := by
  rw [satSub, BitVec.toNat_ofInt]
  omega

/-- The first law of R89 on a channel: the sum comes back, or what the clamp at 255 left of it. -/
theorem satSub_satAdd_toNat (a b : Byte) :
    (satSub (satAdd a b) b).toNat = if a.toNat + b.toNat ≤ 255 then a.toNat else 255 - b.toNat := by
  rw [satSub_toNat, satAdd_toNat]
  split
  · next h => rw [Nat.min_eq_left h, Nat.add_sub_cancel]
  · next h => rw [Nat.min_eq_right (Nat.le_of_not_le h)]

/-- The second law of R89 on a channel: adding to a difference clamped at 0 gives what was added. -/
theorem satAdd_satSub_toNat (a b : Byte) :
    (satAdd (satSub a b) b).toNat = if b.toNat ≤ a.toNat then a.toNat else b.toNat := by
  rw [satAdd_toNat, satSub_toNat]
  split
  · next h => rw [Nat.sub_add_cancel h, Nat.min_eq_left (Nat.le_of_lt_succ a.isLt)]
  · next h => rw [Nat.sub_eq_zero_of_le (Nat.le_of_not_le h), Nat.zero_add, Nat.min_eq_left (Nat.le_of_lt_succ b.isLt)]

/-! ### The operators on a channel -/

section Channel

variable {ch : Color → Byte} (hch : ch = Color.r ∨ ch = Color.g ∨ ch = Color.b)
include hch

/-- Channels never interact (R88). -/
theorem channel_map₂ (f : Byte → Byte → Byte) (c d : Color) : ch (map₂ f c d) = f (ch c) (ch d) := by
  rcases hch with rfl | rfl | rfl <;> rfl

theorem channel_ofScalar (s : Byte) : ch (ofScalar s) = s := by
  rcases hch with rfl | rfl | rfl <;> rfl

theorem channel_add (c d : Color) : ch (add c d) = satAdd (ch c) (ch d) := channel_map₂ hch satAdd c d

theorem channel_sub (c d : Color) : ch (sub c d) = satSub (ch c) (ch d) := channel_map₂ hch satSub c d

theorem channel_mul (c d : Color) : ch (mul c d) = satMul (ch c) (ch d) := channel_map₂ hch satMul c d

theorem channel_addScalar (c : Color) (s : Byte) : ch (addScalar c s) = satAdd (ch c) s := by
  rw [addScalar, channel_add hch, channel_ofScalar hch]

theorem channel_subScalar (c : Color) (s : Byte) : ch (subScalar c s) = satSub (ch c) s := by
  rw [subScalar, channel_sub hch, channel_ofScalar hch]

theorem channel_mulScalar (c : Color) (s : Byte) : ch (mulScalar c s) = satMul (ch c) s := by
  rw [mulScalar, channel_mul hch, channel_ofScalar hch]

/-- `++` is `+` of the scalar 1. -/
theorem channel_inc (c : Color) : ch (inc c) = satAdd (ch c) 1 := channel_addScalar hch c 1

/-- `--` is `-` of the scalar 1. -/
theorem channel_dec (c : Color) : ch (dec c) = satSub (ch c) 1 := channel_subScalar hch c 1

end Channel
end Color

open Color

/-- Settles O54: packing is a sum, unpacking a quotient and a remainder per channel, and each undoes the other. -/
theorem packedColorsRoundTrip : Obligations.PackedColorsRoundTrip := by
  refine ⟨Operand.toPacked_toNat, fun p => ⟨?red, ?green, ?blue⟩, fromPacked_toPacked, toPacked_fromPacked_toNat⟩
  case red => exact Operand.extract_toNat 16 8 p
  case green => exact Operand.extract_toNat 8 8 p
  case blue => exact (Operand.extract_toNat 0 8 p).trans (by omega)

/-- Settles O55: on a channel every operator is its byte operation, which clamps. -/
theorem colorArithmeticSaturates : Obligations.ColorArithmeticSaturates := by
  intro c d s ch hch
  rw [channel_add hch, channel_addScalar hch, channel_sub hch, channel_subScalar hch, channel_mul hch,
    channel_mulScalar hch, channel_inc hch, channel_dec hch]
  exact ⟨satAdd_toNat _ _, satAdd_toNat _ _, satSub_toNat _ _, satSub_toNat _ _, satMul_toNat _ _, satMul_toNat _ _,
    satAdd_toNat _ 1, satSub_toNat _ 1⟩

/-- Settles O56: on a channel the two laws are those of the byte operations, with a color's channel or the scalar. -/
theorem colorInverseLawHoldsUpToClamping : Obligations.ColorInverseLawHoldsUpToClamping := by
  intro c x s ch hch
  simp only [channel_add hch, channel_sub hch, channel_addScalar hch, channel_subScalar hch]
  exact ⟨satSub_satAdd_toNat _ _, satAdd_satSub_toNat _ _, satSub_satAdd_toNat _ _, satAdd_satSub_toNat _ _⟩

end Sys2Proof
end

section
/-! PROOFS. The rasterizer and GET_GLYPH (41_glyph.md R90 to R96). A glyph is its rows one after the other, all of the
font's width, so pixel `(r, c)` is pixel `c` of row `r`; GET_GLYPH answers the packed glyph, whose bytes are where
packing puts them (R45). -/

namespace Sys2Proof

/-! ### Rows of one length, one after the other -/

/-- Element `c` of row `r`, where the rows all have length `w`, is element `r * w + c` of the rows put together. -/
theorem getElem?_flatMap_of_row_length {α β : Type} {row : α → List β} {w : Nat} (hrow : ∀ a, (row a).length = w)
    (as : List α) (r : Nat) {c : Nat} (hc : c < w) :
    (as.flatMap row)[r * w + c]? = as[r]?.bind (fun a => (row a)[c]?) := by
  induction as generalizing r with
  | nil => rfl
  | cons a as ih =>
    have hlen := hrow a
    rw [List.flatMap_cons]
    cases r with
    | zero =>
      rw [Nat.zero_mul, Nat.zero_add, List.getElem?_append_left (hlen.symm ▸ hc), List.getElem?_cons_zero,
        Option.bind_some]
    | succ r =>
      have hskip : (r + 1) * w + c = (row a).length + (r * w + c) := by
        rw [hlen, Nat.succ_mul]
        omega
      rw [hskip, List.getElem?_append_right (Nat.le_add_right _ _), Nat.add_sub_cancel_left, ih,
        List.getElem?_cons_succ]

namespace Machine

/-! ### A glyph, row by row -/

theorem glyphRow_length {gw : Nat} (hgw : gw = 8 ∨ gw = 9) (b fg bg : Byte) : (glyphRow gw b fg bg).length = gw := by
  rcases hgw with rfl | rfl <;> rfl

/-- Column `c` of a row is bit `7 - c` of its byte, and the ninth column is `bg` (R91, R92). -/
theorem getElem?_glyphRow {gw c : Nat} (hgw : gw = 8 ∨ gw = 9) (hc : c < gw) (b fg bg : Byte) :
    (glyphRow gw b fg bg)[c]? = some (if c < 8 ∧ b.getLsbD (7 - c) = true then fg else bg) := by
  rcases Nat.lt_or_ge c 8 with h8 | h8
  · rw [glyphRow, List.getElem?_append_left (by simpa using h8), List.getElem?_map, List.getElem?_range h8]
    simp only [Option.map_some, h8, true_and]
  · have hninth : c = 8 ∧ gw = 9 := by omega
    obtain ⟨rfl, rfl⟩ := hninth
    rfl

variable {cfg : Configuration} {f : Id24} {F : FontRecord}

theorem glyph_eq (hF : cfg.font? f = some F) (code fg bg : Byte) :
    glyph cfg f code fg bg =
      (List.range F.GH).flatMap (fun r => glyphRow F.GW (cfg.rom f (F.GH * code.toNat + r)) fg bg) := by
  rw [glyph, Configuration.fontRecord_of hF]

theorem glyph_length (hok : cfg.ok) (hF : cfg.font? f = some F) (code fg bg : Byte) :
    (glyph cfg f code fg bg).length = F.GW * F.GH := by
  have hgw := (Configuration.font?_ok hok hF).1
  rw [glyph_eq hF, List.length_flatMap]
  simp only [glyphRow_length hgw, List.map_const', List.length_range, List.sum_const_nat, Nat.mul_comm]

theorem getElem?_glyph (hok : cfg.ok) (hF : cfg.font? f = some F) (code fg bg : Byte) {r c : Nat} (hr : r < F.GH)
    (hc : c < F.GW) :
    (glyph cfg f code fg bg)[r * F.GW + c]? =
      some (if c < 8 ∧ (cfg.rom f (F.GH * code.toNat + r)).getLsbD (7 - c) = true then fg else bg) := by
  have hgw := (Configuration.font?_ok hok hF).1
  rw [glyph_eq hF, getElem?_flatMap_of_row_length (fun _ => glyphRow_length hgw _ fg bg) _ _ hc,
    List.getElem?_range hr, Option.bind_some, getElem?_glyphRow hgw hc]

/-! ### GET_GLYPH -/

theorem exec_getGlyph_of_unknown {s : State} (hf : s.config.font? f = none) (code fg bg : Byte) :
    exec (.getGlyph f code fg bg) s = .next (s.raise .invalidArgument) := by
  rw [exec, execGetGlyph, hf]

theorem exec_getGlyph_of_known {s : State} (hF : s.config.font? f = some F) (code fg bg : Byte) :
    exec (.getGlyph f code fg bg) s = .next (s.respond (Operand.pack (glyph s.config f code fg bg))) := by
  rw [exec, execGetGlyph, hF]

end Machine

open Operand Machine

/-- Settles O49: a glyph's pixels are those of its rows, and a row's are the bits of its byte from bit 7 down. -/
theorem glyphIsRasterizedMsbFirst : Obligations.GlyphIsRasterizedMsbFirst :=
  fun _ _ _ code fg bg hok hF =>
    ⟨glyph_length hok hF code fg bg, fun _ _ hr hc => getElem?_glyph hok hF code fg bg hr hc⟩

/-- Settles O50: the packet is a row of format GF, whose one reserved field is the top byte of w1; the answer is the
packed glyph, so its length and its bytes are those of packing. -/
theorem getGlyphAnswersThePackedGlyph : Obligations.GetGlyphAnswersThePackedGlyph := by
  refine ⟨fun s w0 w1 rest hp hop => ?packet, fun s f code fg bg hf => exec_getGlyph_of_unknown hf code fg bg,
    fun s f F code fg bg hok hF => ⟨pack (glyph s.config f code fg bg), exec_getGlyph_of_known hF code fg bg,
      ?length, fun k hk => ?bytes⟩⟩
  case packet =>
    have hstep := step_of_row (ws := [w1]) hp hop rowOf_getGlyph rfl
    simp only [reservedZero, beq_iff_eq] at hstep
    exact hstep
  case length => rw [pack_length, glyph_length hok hF, ceil4]
  case bytes => rw [← getElem?_flatMap_bytesOf_eq_ofNat_div, getElem?_flatMap_bytesOf_pack _ hk]

end Sys2Proof
end

section
/-! PROOFS. The sprite descriptor (42_sprite.md R100 to R105). Construction accepts a source of the descriptor's size,
which a glyph is of its font's; moves and positions touch two fields; the packet of a descriptor is one row of format S,
whose DIM word carries the size the decoder cuts the payload to. -/

namespace Sys2Proof

open Operand

/-! ### The packet of a row -/

/-- A whole packet of a listed row, no reserved bit of it set, is the row's command, built of the packet's own words. -/
theorem decode_of_row {ws : List Word} {op : Op} {f : Format}
    (hrow : rowOf (opcode (wordAt ws 0)) = some (op, f)) (hlen : formatLen f ws = some ws.length)
    (hres : reservedZero f ws = true) : decode ws = .command (build op ws) ws.length := by
  have hne : ws ≠ [] := List.ne_nil_of_length_pos (formatLen_pos hlen)
  refine decode_of_command ((packetLen_of_row hne hrow).trans hlen) le_rfl ?_
  rw [List.take_length, decodePacket_of_row hrow, if_pos hres]

section BlitSprite

variable {x y : Word} {w h : BitVec 16} {pix : List Byte}

theorem encode_blitSprite : encode (.blitSprite x y w h pix) = 0x13000000 :: x :: y :: halves h w :: pack pix := rfl

/-- The decoder reads the payload's size from the DIM word, which carries it (R66). -/
theorem spriteArea_encode_blitSprite : spriteArea (encode (.blitSprite x y w h pix)) = w.toNat * h.toNat := by
  simp only [spriteArea, encode_blitSprite, wordAt_cons_succ, wordAt_cons_zero, lowHalf_halves, highHalf_halves]

theorem encode_blitSprite_length : (encode (.blitSprite x y w h pix)).length = 4 + ceil4 pix.length := by
  simp only [encode_blitSprite, List.length_cons, pack_length]
  omega

/-- A sprite with as many pixels as its size says is read back from its packet. -/
theorem decode_encode_blitSprite (hpix : pix.length = w.toNat * h.toNat) :
    decode (encode (.blitSprite x y w h pix)) = .command (.blitSprite x y w h pix) (4 + ceil4 pix.length) := by
  have harea : spriteArea (encode (.blitSprite x y w h pix)) = pix.length :=
    spriteArea_encode_blitSprite.trans hpix.symm
  have hlen : formatLen .s (encode (.blitSprite x y w h pix)) = some (encode (.blitSprite x y w h pix)).length := by
    rw [encode_blitSprite_length, formatLen, harea, if_neg]
    rw [encode_blitSprite_length]
    omega
  have hbuild : build .blitSprite (encode (.blitSprite x y w h pix)) = .blitSprite x y w h pix := by
    rw [build, harea]
    simp only [encode_blitSprite, wordAt_cons_succ, wordAt_cons_zero, lowHalf_halves, highHalf_halves,
      List.drop_succ_cons, List.drop_zero, unpack_pack]
  have hrow : rowOf (opcode (wordAt (encode (.blitSprite x y w h pix)) 0)) = some (.blitSprite, .s) :=
    (congrArg rowOf (opcode_header24 0x13 0)).trans rowOf_blitSprite
  have hres : reservedZero .s (encode (.blitSprite x y w h pix)) = true := beq_iff_eq.2 (low24_header24 0x13 0)
  rw [decode_of_row hrow hlen hres, hbuild, encode_blitSprite_length]

end BlitSprite

namespace Machine

/-! ### Construction -/

variable {w h : BitVec 16}

/-- R100's first check, which the model writes with words and the obligation with numbers. -/
theorem size_eq_zero_iff : w = 0 ∨ h = 0 ↔ w.toNat < 1 ∨ h.toNat < 1 :=
  or_congr (BitVec.toNat_eq.trans Nat.lt_one_iff.symm) (BitVec.toNat_eq.trans Nat.lt_one_iff.symm)

theorem size_ne_zero (hw : 1 ≤ w.toNat) (hh : 1 ≤ h.toNat) : ¬ (w = 0 ∨ h = 0) := by
  rw [size_eq_zero_iff]
  omega

theorem spriteNew_of_size_zero (hwh : w.toNat < 1 ∨ h.toNat < 1) (src : Option (List Byte)) :
    spriteNew w h src = .error .invalidArgument :=
  if_pos (size_eq_zero_iff.2 hwh)

theorem spriteNew_none (hw : 1 ≤ w.toNat) (hh : 1 ≤ h.toNat) :
    spriteNew w h none = .ok ⟨w, h, 0, 0, List.replicate (w.toNat * h.toNat) 0⟩ :=
  if_neg (size_ne_zero hw hh)

theorem spriteNew_some (hw : 1 ≤ w.toNat) (hh : 1 ≤ h.toNat) {src : List Byte}
    (hsrc : src.length = w.toNat * h.toNat) : spriteNew w h (some src) = .ok ⟨w, h, 0, 0, src⟩ :=
  (if_neg (size_ne_zero hw hh)).trans (if_pos hsrc)

/-- A source of the wrong length is refused, by the first check of R100 or by the second. -/
theorem spriteNew_of_length_ne {src : List Byte} (hsrc : src.length ≠ w.toNat * h.toNat) :
    spriteNew w h (some src) = .error .invalidArgument := by
  simp only [spriteNew, if_neg hsrc, ite_self]

/-- A glyph has the length its font's size asks for (R93), so it makes a sprite where the descriptor holds the size. -/
theorem spriteOfGlyph_of_known {c : Configuration} {f : Id24} {F : FontRecord} (hok : c.ok) (hF : c.font? f = some F)
    (hw : w.toNat = F.GW) (hh : h.toNat = F.GH) (code fg bg : Byte) :
    spriteOfGlyph c f code fg bg = .ok ⟨w, h, 0, 0, glyph c f code fg bg⟩ := by
  obtain ⟨hGW, hGH, -⟩ := Configuration.font?_ok hok hF
  have hlen : (glyph c f code fg bg).length = w.toNat * h.toNat := by rw [glyph_length hok hF, hw, hh]
  have hw' : BitVec.ofNat 16 F.GW = w := by rw [← hw, BitVec.ofNat_toNat, BitVec.setWidth_eq]
  have hh' : BitVec.ofNat 16 F.GH = h := by rw [← hh, BitVec.ofNat_toNat, BitVec.setWidth_eq]
  rw [spriteOfGlyph, Configuration.fontRecord_of hF, hw', hh', spriteNew_some (by omega) (by omega) hlen]

end Machine

open Machine

/-- Settles O59: the packet is the encoder's row, its DIM word the sum of the two halves, and a built descriptor has as
many pixels as the decoder takes for its size. -/
theorem spritePacketCarriesTheDescriptor : Obligations.SpritePacketCarriesTheDescriptor := by
  rintro p ⟨-, -, hpix⟩
  exact ⟨⟨halves p.h p.w, encode_blitSprite, halves_toNat p.h p.w⟩, decode_encode_blitSprite hpix⟩

/-- Settles O57: the two checks of R100, and a glyph passes both. -/
theorem spriteConstructionChecksItsSize : Obligations.SpriteConstructionChecksItsSize := by
  refine ⟨fun _ _ src hwh => spriteNew_of_size_zero hwh src, fun _ _ _ => spriteNew_of_length_ne,
    fun _ _ => spriteNew_none, fun _ _ _ hw hh => spriteNew_some hw hh, fun c f F code fg bg hok hF hGH => ?glyph⟩
  case glyph =>
    obtain ⟨hGW, -, -⟩ := Configuration.font?_ok hok hF
    have hw : (BitVec.ofNat 16 F.GW).toNat = F.GW := (BitVec.toNat_ofNat _ _).trans (Nat.mod_eq_of_lt (by omega))
    have hh : (BitVec.ofNat 16 F.GH).toNat = F.GH := (BitVec.toNat_ofNat _ _).trans (Nat.mod_eq_of_lt hGH)
    exact ⟨_, spriteOfGlyph_of_known hok hF hw hh code fg bg, hw, hh, rfl⟩

/-- Settles O58: the sum of two words is their sum modulo 2^32; the other fields and the accessors are by definition. -/
theorem spriteMoveWrapsModulo32Bits : Obligations.SpriteMoveWrapsModulo32Bits :=
  ⟨fun p dx dy => ⟨rfl, BitVec.toNat_add p.x dx, BitVec.toNat_add p.y dy⟩, fun _ _ _ => ⟨rfl, rfl, rfl, rfl⟩⟩

end Sys2Proof
end

section
/-! PROOFS. The palette commands (44_palette.md R111 to R115). Each packet is one row of the opcode map, three of them with
one reserved field; each effect is a new palette, or an answer, behind the range check that R112 to R114 put first. -/

namespace Sys2Proof

/-- The packed form as the word of R77's sum. -/
theorem Color.toPacked_eq_ofNat (c : Color) :
    c.toPacked = BitVec.ofNat 32 (c.r.toNat * 65536 + c.g.toNat * 256 + c.b.toNat) := by
  rw [← Operand.toPacked_toNat, BitVec.ofNat_toNat, BitVec.setWidth_eq]

namespace Machine

/-! ### Packets whose format reserves one field -/

/-- A step on a packet of a listed opcode whose reserved bits are one field of it: the command runs when the field is 0, and
the packet is illegal when it is not (R70). -/
theorem step_of_row_of_reservedField {s : State} {w0 : Word} {ws rest : List Word} {k : Byte} {op : Op} {f : Format}
    {n : Nat} {field : BitVec n} (hp : s.packetBuf ++ s.port = w0 :: (ws ++ rest)) (hk : Operand.opcode w0 = k)
    (hr : rowOf k = some (op, f)) (hl : formatLen f (w0 :: (ws ++ rest)) = some (ws.length + 1))
    (hres : reservedZero f (w0 :: ws) = (field == 0)) :
    step s = if field = 0 then exec (build op (w0 :: ws)) (s.taken rest) else .next (s.illegalAfter rest) := by
  rw [step_of_row hp hk hr hl, hres]
  simp only [beq_iff_eq]
  rfl

/-- The count of a SET_PALETTE packet is its number of COLOR words, so the command carries all of them. -/
theorem build_setPalette {w0 : Word} {ws : List Word} (hlen : ws.length = (Operand.low24 w0).toNat) :
    build .setPalette (w0 :: ws) = .setPalette (ws.map Color.fromPacked) := by
  rw [build, wordAt_cons_zero, List.drop_succ_cons, List.drop_zero, List.take_of_length_le hlen.le]

/-! ### The palettes written -/

namespace State

theorem getElem?_loadPal_of_lt {s : State} {colors : List Color} {i : Nat} (hi : i < colors.length) :
    (s.loadPal colors).pal[i]? = colors[i]? := by
  rw [loadPal_pal, List.getElem?_append_left hi]

theorem getElem?_loadPal_of_le {s : State} {colors : List Color} {i : Nat} (hi : colors.length ≤ i) :
    (s.loadPal colors).pal[i]? = s.pal[i]? := by
  rw [loadPal_pal, List.getElem?_append_right hi, List.getElem?_drop, Nat.add_sub_cancel' hi]

/-- In a mode of the table, the palette RESET_PALETTE writes is the default one of the mode's size (R29). -/
theorem restorePal_pal_of_mode {s : State} {M : ModeRecord} (hM : s.config.mode? s.mode = some M) :
    s.restorePal.pal = s.config.defaultPalette M.NC := by
  rw [restorePal_pal, NC, modeRec_of hM]

end State

/-! ### The commands, case by case -/

variable {s : State} {colors : List Color} {idx : Byte}

theorem exec_setPalette_of_lt (h : s.NC < colors.length) :
    exec (.setPalette colors) s = .next (s.raise .invalidArgument) := by
  rw [exec, execSetPalette, if_pos h]

theorem exec_setPalette_of_le (h : colors.length ≤ s.NC) :
    exec (.setPalette colors) s = .next ((s.loadPal colors).respond []) := by
  rw [exec, execSetPalette, if_neg h.not_gt]

theorem exec_setColor_of_le (h : s.NC ≤ idx.toNat) (c : Color) :
    exec (.setColor idx c) s = .next (s.raise .outOfRange) := by
  rw [exec, execSetColor, if_pos h]

theorem exec_setColor_of_lt (h : idx.toNat < s.NC) (c : Color) :
    exec (.setColor idx c) s = .next ((s.setPal idx c).respond []) := by
  rw [exec, execSetColor, if_neg h.not_ge]

theorem exec_getColor_of_le (h : s.NC ≤ idx.toNat) : exec (.getColor idx) s = .next (s.raise .outOfRange) := by
  rw [exec, execGetColor, if_pos h]

theorem exec_getColor_of_lookup {c : Color} (h : idx.toNat < s.NC) (hc : s.lookup idx = some c) :
    exec (.getColor idx) s = .next (s.respond [c.toPacked]) := by
  rw [exec, execGetColor, if_neg h.not_ge, hc]

theorem exec_resetPalette (s : State) : exec .resetPalette s = .next (s.restorePal.respond []) := rfl

end Machine

open Operand Machine

/-- Settles O34: the count is the number of the payload's words, whatever `NC` is; a load is the colors, then what stood
behind them. -/
theorem setPaletteLoadsFromEntryZero : Obligations.SetPaletteLoadsFromEntryZero := by
  refine ⟨fun s w0 ws rest hp hop hlen => ?packet, fun s colors => exec_setPalette_of_lt, fun s colors hn =>
    ⟨(s.loadPal colors).pal, exec_setPalette_of_le hn, fun _ => State.getElem?_loadPal_of_lt,
      fun _ => State.getElem?_loadPal_of_le⟩⟩
  case packet =>
    have hwords : formatLen .lColors (w0 :: (ws ++ rest)) = some (ws.length + 1) := by
      rw [formatLen, wordAt_cons_zero, low24, ← hlen, Nat.add_comm]
    rw [step_of_row hp hop rowOf_setPalette hwords, build_setPalette hlen]
    exact if_pos rfl

/-- Settles O35: the packet is a row of format I8W, which reserves w0[23:8]; an entry inside the palette is set, and setting
it leaves every other entry. -/
theorem setColorWritesOneEntry : Obligations.SetColorWritesOneEntry := by
  refine ⟨fun s w0 w1 rest hp hop => ?packet, fun s idx c h => exec_setColor_of_le h c, fun s idx c hpal hidx =>
    ⟨(s.setPal idx c).pal, exec_setColor_of_lt hidx c, ?entry, fun i hi => ?others⟩⟩
  case packet => exact step_of_row_of_reservedField (ws := [w1]) hp hop rowOf_setColor rfl rfl
  case entry => exact List.getElem?_set_self (hpal.symm ▸ hidx)
  case others => exact List.getElem?_set_ne hi.symm

/-- Settles O36: the packet is a row of format I8, which reserves w0[23:8]; an index below `NC` has an entry, and the answer
is its packed form. -/
theorem getColorAnswersThePackedEntry : Obligations.GetColorAnswersThePackedEntry := by
  refine ⟨fun s w0 rest hp hop => ?packet, fun s idx => exec_getColor_of_le, fun s idx hpal hidx => ?answer⟩
  case packet => exact step_of_row_of_reservedField (ws := []) hp hop rowOf_getColor rfl rfl
  case answer =>
    have hentry : s.pal[idx.toNat]? = some _ := List.getElem?_eq_getElem (hpal.symm ▸ hidx)
    exact ⟨_, hentry, Color.toPacked_eq_ofNat _ ▸ exec_getColor_of_lookup hidx hentry⟩

/-- Settles O37: the packet is a row of format N, which reserves w0[23:0]; the palette written is the default one, and a
mode's palette has at least the sixteen entries of the defaults. -/
theorem resetPaletteRestoresTheDefault : Obligations.ResetPaletteRestoresTheDefault := by
  refine ⟨fun s w0 rest hp hop => ?packet, fun s M hok hM => ⟨s.restorePal.pal, exec_resetPalette s, ?entries⟩⟩
  case packet => exact step_of_row_of_reservedField (ws := []) hp hop rowOf_resetPalette rfl rfl
  case entries =>
    obtain ⟨-, -, -, hNC, -⟩ := Configuration.mode?_ok hok hM
    obtain ⟨-, -, -, -, -, hdefaults⟩ := hok
    rw [State.restorePal_pal_of_mode hM]
    refine ⟨Configuration.defaultPalette_length _ _, fun i hi => ?_, fun i hi hlt => ?_⟩
    · rw [Configuration.getElem?_defaultPalette hdefaults _ _ (by omega), if_pos hi]
    · rw [Configuration.getElem?_defaultPalette hdefaults _ _ hlt, if_neg hi.not_gt]

end Sys2Proof
end

section
/-! PROOFS. Pixels and blits (45_pixel_blit.md R118 to R125). Each packet is one row of the opcode map, whose reserved field
is the one its format names; each effect is a write to VRAM alone, or an answer, behind the checks that R119 to R125 put
first. -/

namespace Sys2Proof
namespace Machine

/-! ### The two packets with a payload -/

/-- The length of a sprite packet is known once its DIM word is there: four words, then the payload (R58). -/
theorem formatLen_s_of_payload {w0 w1 w2 w3 : Word} {ws rest : List Word}
    (hlen : ws.length = ceil4 ((Operand.lowHalf w3).toNat * (Operand.highHalf w3).toNat)) :
    formatLen .s (w0 :: w1 :: w2 :: w3 :: (ws ++ rest)) = some ((w1 :: w2 :: w3 :: ws).length + 1) := by
  have hdim : ¬ (w0 :: w1 :: w2 :: w3 :: (ws ++ rest)).length < 4 := by
    simp only [List.length_cons]
    omega
  rw [formatLen, if_neg hdim, spriteArea, List.length_cons, List.length_cons, List.length_cons, hlen]
  exact congrArg some (Nat.add_comm _ _)

/-- The length of a BLIT_FULL packet is its header and the payload of its count (R58). -/
theorem formatLen_lBytes_of_payload {w0 : Word} {ws rest : List Word}
    (hlen : ws.length = ceil4 (Operand.low24 w0).toNat) :
    formatLen .lBytes (w0 :: (ws ++ rest)) = some (ws.length + 1) := by
  rw [formatLen, wordAt_cons_zero, ← hlen, Nat.add_comm]

/-! ### The cells written -/

namespace State

variable {s : State} {pix : List Byte}

theorem indicesOk_iff : s.indicesOk pix = true ↔ ∀ p ∈ pix, p.toNat < s.NC := by
  simp only [indicesOk, List.all_eq_true, decide_eq_true_eq]

theorem not_indicesOk_iff : ¬ s.indicesOk pix = true ↔ ∃ p ∈ pix, s.NC ≤ p.toNat := by
  simp only [indicesOk_iff, not_forall, not_lt, exists_prop]

theorem vramRead_vramWriteRun_zero_of_lt {k : Nat} (hk : k < pix.length) :
    some ((s.vramWriteRun 0 pix).vramRead k) = pix[k]? := by
  rw [vramRead_vramWriteRun, Nat.zero_add, if_pos ⟨Nat.zero_le k, hk⟩, Nat.sub_zero, List.getD_eq_getElem _ _ hk,
    List.getElem?_eq_getElem hk]

theorem vramRead_vramWriteRun_zero_of_le {a : Nat} (ha : pix.length ≤ a) :
    (s.vramWriteRun 0 pix).vramRead a = s.vramRead a := by
  rw [vramRead_vramWriteRun, Nat.zero_add, if_neg (fun h => h.2.not_ge ha)]

end State

/-! ### The commands, case by case -/

variable {s : State} {pix : List Byte}

section Pixel

variable {idx : Byte} {x y : BitVec 16}

theorem exec_setPixel_of_out (h : s.W ≤ x.toNat ∨ s.H ≤ y.toNat ∨ s.NC ≤ idx.toNat) :
    exec (.setPixel idx x y) s = .next (s.raise .outOfRange) := by
  rw [exec, execSetPixel]
  rcases or_assoc.2 h with hxy | hidx
  · rw [if_pos hxy]
  · rw [if_pos hidx, ite_self]

theorem exec_setPixel_of_in (hx : x.toNat < s.W) (hy : y.toNat < s.H) (hidx : idx.toNat < s.NC) :
    exec (.setPixel idx x y) s = .next ((s.vramWrite (x.toNat + s.W * y.toNat) idx).respond []) := by
  rw [exec, execSetPixel, if_neg (not_or.2 ⟨hx.not_ge, hy.not_ge⟩), if_neg hidx.not_ge]
  rfl

theorem exec_getPixel_of_out (h : s.W ≤ x.toNat ∨ s.H ≤ y.toNat) :
    exec (.getPixel x y) s = .next (s.raise .outOfRange) := by
  rw [exec, execGetPixel, if_pos h]

/-- The answer is the cell's number as a word, which is R120's `zext_32` of the cell. -/
theorem exec_getPixel_of_in (hx : x.toNat < s.W) (hy : y.toNat < s.H) :
    exec (.getPixel x y) s =
      .next (s.respond [BitVec.ofNat 32 (s.vramRead (x.toNat + s.W * y.toNat)).toNat]) := by
  rw [exec, execGetPixel, if_neg (not_or.2 ⟨hx.not_ge, hy.not_ge⟩), BitVec.ofNat_toNat]
  rfl

end Pixel

theorem exec_blitFull_of_length_ne (h : pix.length ≠ s.W * s.H) :
    exec (.blitFull pix) s = .next (s.raise .invalidArgument) := by
  rw [exec, execBlitFull, if_pos h]

theorem exec_blitFull_of_bad_index (hlen : pix.length = s.W * s.H) (hbad : ∃ p ∈ pix, s.NC ≤ p.toNat) :
    exec (.blitFull pix) s = .next (s.raise .outOfRange) := by
  rw [exec, execBlitFull, if_neg (not_not.2 hlen), if_neg (State.not_indicesOk_iff.2 hbad)]

theorem exec_blitFull_of_ok (hlen : pix.length = s.W * s.H) (hok : ∀ p ∈ pix, p.toNat < s.NC) :
    exec (.blitFull pix) s = .next ((s.vramWriteRun 0 pix).respond []) := by
  rw [exec, execBlitFull, if_neg (not_not.2 hlen), if_pos (State.indicesOk_iff.2 hok)]

section Sprite

variable {x y : Word} {w h : BitVec 16}

theorem exec_blitSprite_of_size_zero (hwh : w.toNat < 1 ∨ h.toNat < 1) :
    exec (.blitSprite x y w h pix) s = .next (s.raise .invalidArgument) := by
  rw [exec, execBlitSprite, if_pos (size_eq_zero_iff.2 hwh)]

theorem exec_blitSprite_of_bad_index (hw : 1 ≤ w.toNat) (hh : 1 ≤ h.toNat) (hbad : ∃ p ∈ pix, s.NC ≤ p.toNat) :
    exec (.blitSprite x y w h pix) s = .next (s.raise .outOfRange) := by
  rw [exec, execBlitSprite, if_neg (size_ne_zero hw hh), if_neg (State.not_indicesOk_iff.2 hbad)]

theorem exec_blitSprite_of_ok (hw : 1 ≤ w.toNat) (hh : 1 ≤ h.toNat) (hok : ∀ p ∈ pix, p.toNat < s.NC) :
    exec (.blitSprite x y w h pix) s =
      .next ((spriteBlit x.toInt y.toInt w.toNat h.toNat pix s).respond []) := by
  rw [exec, execBlitSprite, if_neg (size_ne_zero hw hh), if_pos (State.indicesOk_iff.2 hok)]
  rfl

end Sprite
end Machine

open Machine

/-- Settles O41: the payload's words are those of its count, so the packet's length is known from the header; the write is
one run from address 0, and `W*H` bytes long it covers the framebuffer and nothing past it. -/
theorem blitFullReplacesEveryCell : Obligations.BlitFullReplacesEveryCell := by
  refine ⟨fun s w0 ws rest hp hop hlen => ?packet, fun s pix => exec_blitFull_of_length_ne,
    fun s pix => exec_blitFull_of_bad_index, fun s pix hlen hok =>
      ⟨(s.vramWriteRun 0 pix).respond [], exec_blitFull_of_ok hlen hok, rfl, fun k hk => ?inside, fun a ha => ?outside⟩⟩
  case packet =>
    rw [step_of_row hp hop rowOf_blitFull (formatLen_lBytes_of_payload hlen)]
    exact if_pos rfl
  case inside => exact State.vramRead_vramWriteRun_zero_of_lt (hlen.symm ▸ hk)
  case outside => exact State.vramRead_vramWriteRun_zero_of_le (hlen.symm ▸ ha)

/-- Settles O42: the packet is a row of format S, which reserves w0[23:0]; the write is the clipping copy, whose cells are
those of `spriteBlit_read` inside the framebuffer and the old ones past it. -/
theorem blitSpriteCopiesExactlyTheIntersection : Obligations.BlitSpriteCopiesExactlyTheIntersection := by
  refine ⟨fun s w0 w1 w2 w3 ws rest hp hop hlen => ?packet, fun s x y w h pix hwh => ?sizeZero,
    fun s x y w h pix hw hh => exec_blitSprite_of_bad_index (Nat.one_le_iff_ne_zero.2 hw) (Nat.one_le_iff_ne_zero.2 hh),
    fun s x y w h pix hw hh hpix hok => ⟨(spriteBlit x.toInt y.toInt w.toNat h.toNat pix s).respond [],
      exec_blitSprite_of_ok (Nat.one_le_iff_ne_zero.2 hw) (Nat.one_le_iff_ne_zero.2 hh) hok, ?frame,
      fun xx yy hx hy => spriteBlit_read hpix hx hy, fun a ha => spriteBlit_read_outside ha⟩⟩
  case packet =>
    exact step_of_row_of_reservedField (ws := w1 :: w2 :: w3 :: ws) hp hop rowOf_blitSprite
      (formatLen_s_of_payload hlen) rfl
  case sizeZero => exact exec_blitSprite_of_size_zero (hwh.imp Nat.lt_one_iff.2 Nat.lt_one_iff.2)
  case frame => exact congrArg (State.respond []) (spriteBlit_only_vram x.toInt y.toInt w.toNat h.toNat pix s)

/-- Settles O39: the packet is a row of format I8W, which reserves w0[23:8]; the write is of the one cell. -/
theorem setPixelWritesOneCell : Obligations.SetPixelWritesOneCell := by
  refine ⟨fun s w0 w1 rest hp hop => ?packet, fun s idx x y => exec_setPixel_of_out, fun s idx x y hx hy hidx =>
    ⟨(s.vramWrite (x.toNat + s.W * y.toNat) idx).respond [], exec_setPixel_of_in hx hy hidx, rfl,
      fun a => State.vramRead_vramWrite s _ a idx⟩⟩
  case packet => exact step_of_row_of_reservedField (ws := [w1]) hp hop rowOf_setPixel rfl rfl

/-- Settles O40: the packet is a row of format W, which reserves w0[23:0]; the answer is the cell. -/
theorem getPixelAnswersTheCell : Obligations.GetPixelAnswersTheCell := by
  refine ⟨fun s w0 w1 rest hp hop => ?packet, fun s x y => exec_getPixel_of_out, fun s x y => exec_getPixel_of_in⟩
  case packet => exact step_of_row_of_reservedField (ws := [w1]) hp hop rowOf_getPixel rfl rfl

end Sys2Proof
end

section
/-! PROOFS. Text, the cursor and the fonts (46_text.md R126 to R132). Each packet is one row of the opcode map. A character is
drawn by the sprite blit of its glyph, which has the size of its font, so its cells are those of `spriteBlit_read`; the
cursor wraps into the grid, whose cells the cursor's fields hold. -/

namespace Sys2Proof

/-- The word of two halves as the number R69 gives it. -/
theorem Operand.halves_eq_ofNat (hi lo : BitVec 16) :
    Operand.halves hi lo = BitVec.ofNat 32 (hi.toNat * 65536 + lo.toNat) := by
  have h : hi.toNat * 65536 + lo.toNat = (Operand.halves hi lo).toNat := (Operand.halves_toNat hi lo).symm
  rw [h, BitVec.ofNat_toNat, BitVec.setWidth_eq]

namespace Machine

/-- A step on a packet of a listed opcode whose reserved bits are all zero, as they are where its format has none. -/
theorem step_of_row_of_reservedZero {s : State} {w0 : Word} {ws rest : List Word} {k : Byte} {op : Op} {f : Format}
    (hp : s.packetBuf ++ s.port = w0 :: (ws ++ rest)) (hk : Operand.opcode w0 = k) (hr : rowOf k = some (op, f))
    (hl : formatLen f (w0 :: (ws ++ rest)) = some (ws.length + 1)) (hres : reservedZero f (w0 :: ws) = true) :
    step s = exec (build op (w0 :: ws)) (s.taken rest) := by
  rw [step_of_row hp hk hr hl, if_pos hres]

/-! ### The cursor -/

namespace State

variable {s : State}

theorem setCursor_curCol_toNat {col : Nat} (h : col < 2 ^ 16) (row : Nat) : (s.setCursor col row).curCol.toNat = col :=
  (BitVec.toNat_ofNat _ _).trans (Nat.mod_eq_of_lt h)

theorem setCursor_curRow_toNat {row : Nat} (h : row < 2 ^ 16) (col : Nat) : (s.setCursor col row).curRow.toNat = row :=
  (BitVec.toNat_ofNat _ _).trans (Nat.mod_eq_of_lt h)

/-- The cells of every grid have numbers that fit the cursor's fields. -/
theorem grid_le (hok : s.config.ok) : s.gridCols ≤ 65535 ∧ s.gridRows ≤ 65535 :=
  (size_le hok).imp (Nat.div_le_self _ _).trans (Nat.div_le_self _ _).trans

/-- `Advance()` as numbers, its three cases (R128). -/
theorem advance_cursor (hok : s.config.ok) :
    (s.advance.curCol.toNat, s.advance.curRow.toNat) =
      if s.curCol.toNat + 1 < s.gridCols then (s.curCol.toNat + 1, s.curRow.toNat)
      else if s.curRow.toNat + 1 < s.gridRows then (0, s.curRow.toNat + 1) else (0, 0) := by
  obtain ⟨hC, hR⟩ := grid_le hok
  rcases s.advance_cases with ⟨hcol, h⟩ | ⟨hcol, hrow, h⟩ | ⟨hcol, hrow, h⟩
  · rw [h, if_pos hcol, setCursor_curCol_toNat (by omega), setCursor_curRow_toNat s.curRow.isLt]
  · rw [h, if_neg hcol, if_pos hrow, setCursor_curCol_toNat (by omega), setCursor_curRow_toNat (by omega)]
  · rw [h, if_neg hcol, if_neg hrow]
    rfl

/-- Inside the grid `Advance()` is the step modulo the grid's size. -/
theorem advance_cursor_mod (hok : s.config.ok) (hcol : s.curCol.toNat < s.gridCols)
    (hrow : s.curRow.toNat < s.gridRows) :
    (s.advance.curCol.toNat, s.advance.curRow.toNat) =
      ((s.curCol.toNat + 1) % s.gridCols,
        if s.curCol.toNat + 1 = s.gridCols then (s.curRow.toNat + 1) % s.gridRows else s.curRow.toNat) := by
  rw [advance_cursor hok]
  rcases (Nat.add_one_le_iff.2 hcol).lt_or_eq with hnext | hlast
  · rw [if_pos hnext, Nat.mod_eq_of_lt hnext, if_neg hnext.ne]
  · rw [if_neg hlast.not_lt, hlast, Nat.mod_self, if_pos rfl]
    rcases (Nat.add_one_le_iff.2 hrow).lt_or_eq with hnext | hlast
    · rw [if_pos hnext, Nat.mod_eq_of_lt hnext]
    · rw [if_neg hlast.not_lt, hlast, Nat.mod_self]

theorem advance_only_cursor (s : State) :
    s.advance = { s with curCol := s.advance.curCol, curRow := s.advance.curRow } := by
  rcases s.advance_cases with ⟨-, h⟩ | ⟨-, -, h⟩ | ⟨-, -, h⟩ <;> rw [h] <;> rfl

theorem advance_vramRead (s : State) (a : Nat) : s.advance.vramRead a = s.vramRead a := by
  rw [advance_only_cursor]
  rfl

/-- The cursor moves the same way whatever VRAM holds. -/
theorem advance_with_vram (s : State) (v : List Host.Cell) :
    advance { s with vram := v } = { s.advance with vram := v } := by
  rcases s.advance_cases with ⟨hcol, h⟩ | ⟨hcol, hrow, h⟩ | ⟨hcol, hrow, h⟩ <;> rw [h]
  · exact if_pos hcol
  · exact (if_neg hcol).trans (if_pos hrow)
  · exact (if_neg hcol).trans (if_neg hrow)

end State

/-! ### Drawing a character -/

section Draw

variable {s : State} {F : FontRecord} (hF : s.config.font? s.font = some F)
include hF

theorem drawChar_eq (code fg bg : Byte) (x y : Int) :
    drawChar code fg bg x y s = spriteBlit x y F.GW F.GH (glyph s.config s.font code fg bg) s := by
  rw [drawChar, State.GW, State.GH, State.fontRec_of hF]

/-- A cell of the glyph's rectangle is the glyph's pixel there, and every other cell of the framebuffer stays. -/
theorem drawChar_read (hok : s.config.ok) (code fg bg : Byte) (x y : Int) {xx yy : Nat} (hx : xx < s.W)
    (hy : yy < s.H) :
    some ((drawChar code fg bg x y s).vramRead (xx + s.W * yy)) =
      if (x ≤ xx ∧ (xx : Int) < x + F.GW) ∧ (y ≤ yy ∧ (yy : Int) < y + F.GH) then
        (glyph s.config s.font code fg bg)[((xx : Int) - x).toNat + F.GW * ((yy : Int) - y).toNat]?
      else some (s.vramRead (xx + s.W * yy)) := by
  rw [drawChar_eq hF]
  exact spriteBlit_read (glyph_length hok hF code fg bg) hx hy

/-- The same at a position that is not negative, as a cursor's is. -/
theorem drawChar_read_of_nat (hok : s.config.ok) (code fg bg : Byte) (x y : Nat) {xx yy : Nat} (hx : xx < s.W)
    (hy : yy < s.H) :
    some ((drawChar code fg bg x y s).vramRead (xx + s.W * yy)) =
      if (x ≤ xx ∧ xx < x + F.GW) ∧ (y ≤ yy ∧ yy < y + F.GH) then
        (glyph s.config s.font code fg bg)[(xx - x) + F.GW * (yy - y)]?
      else some (s.vramRead (xx + s.W * yy)) := by
  rw [drawChar_read hF hok code fg bg x y hx hy]
  simp only [← Nat.cast_add, Nat.cast_le, Nat.cast_lt, Int.toNat_sub]

end Draw

section Frame

variable (s : State) (code fg bg : Byte) (x y : Int)

theorem drawChar_only_vram : drawChar code fg bg x y s = { s with vram := (drawChar code fg bg x y s).vram } :=
  spriteBlit_only_vram x y _ _ _ s

theorem drawChar_read_outside {a : Nat} (ha : s.W * s.H ≤ a) : (drawChar code fg bg x y s).vramRead a = s.vramRead a :=
  spriteBlit_read_outside ha

/-- Drawing leaves the cursor's advance as it is. -/
theorem advance_drawChar :
    (drawChar code fg bg x y s).advance = { s.advance with vram := (drawChar code fg bg x y s).vram } := by
  rw [drawChar_only_vram, State.advance_with_vram]

end Frame

/-! ### The commands, case by case -/

variable {s : State} {f : Id24} {fg bg : Byte}

theorem exec_putcharAt_of_bad_index (h : s.NC ≤ fg.toNat ∨ s.NC ≤ bg.toNat) (code : Byte) (x y : Word) :
    exec (.putcharAt code fg bg x y) s = .next (s.raise .outOfRange) := by
  rw [exec, execPutcharAt, if_pos h]

theorem exec_putcharAt_of_ok (hfg : fg.toNat < s.NC) (hbg : bg.toNat < s.NC) (code : Byte) (x y : Word) :
    exec (.putcharAt code fg bg x y) s = .next ((drawChar code fg bg x.toInt y.toInt s).respond []) := by
  rw [exec, execPutcharAt, if_neg (not_or.2 ⟨hfg.not_ge, hbg.not_ge⟩)]
  rfl

theorem exec_putchar_of_bad_index (h : s.NC ≤ fg.toNat ∨ s.NC ≤ bg.toNat) (code : Byte) :
    exec (.putchar code fg bg) s = .next (s.raise .outOfRange) := by
  rw [exec, execPutchar, if_pos h]

/-- The cursor's cell as a pixel position: its column and row times the glyph's size (R127). -/
theorem exec_putchar_of_ok {F : FontRecord} (hF : s.config.font? s.font = some F) (hfg : fg.toNat < s.NC)
    (hbg : bg.toNat < s.NC) (code : Byte) :
    exec (.putchar code fg bg) s =
      .next ((drawChar code fg bg (s.curCol.toNat * F.GW : Nat) (s.curRow.toNat * F.GH : Nat) s).advance.respond []) := by
  rw [exec, execPutchar, if_neg (not_or.2 ⟨hfg.not_ge, hbg.not_ge⟩), State.GW, State.GH, State.fontRec_of hF]

theorem exec_setFont_of_unknown (hf : s.config.font? f = none) :
    exec (.setFont f) s = .next (s.raise .invalidArgument) := by
  rw [exec, execSetFont, hf]

theorem exec_setFont_of_known {F : FontRecord} (hF : s.config.font? f = some F) :
    exec (.setFont f) s = .next
      (if s.W < F.GW ∨ s.H < F.GH then s.raise .invalidArgument else State.respond [] { s with font := f }) := by
  rw [exec, execSetFont, hF]

end Machine

open Machine

/-- Settles O31: the three cases are those of `advance_cursor`, and inside the grid they are the modulo step. -/
theorem advanceWrapsColumnThenRow : Obligations.AdvanceWrapsColumnThenRow := by
  intro s hok
  have hcur := State.advance_cursor hok
  refine ⟨s.advance_only_cursor, fun hcol => ?nextCol, fun hcol hrow => ?nextRow, fun hcol hrow => ?top,
    fun hcol hrow => Prod.mk.inj (State.advance_cursor_mod hok hcol hrow)⟩
  case nextCol =>
    rw [if_pos hcol] at hcur
    exact (Prod.mk.inj hcur).imp id BitVec.eq_of_toNat_eq
  case nextRow =>
    rw [if_neg hcol.not_gt, if_pos hrow] at hcur
    exact (Prod.mk.inj hcur).imp BitVec.eq_of_toNat_eq id
  case top =>
    rw [if_neg hcol.not_gt, if_neg hrow.not_gt] at hcur
    exact (Prod.mk.inj hcur).imp BitVec.eq_of_toNat_eq BitVec.eq_of_toNat_eq

/-- Settles O43: the packet is a row of format GXY, which reserves no bit; the glyph is drawn by the clipping copy, which
writes VRAM alone. -/
theorem putcharAtDrawsTheClippedGlyph : Obligations.PutcharAtDrawsTheClippedGlyph := by
  refine ⟨fun s w0 w1 w2 rest hp hop => ?packet,
    fun s code fg bg x y h => exec_putcharAt_of_bad_index h code x y, fun s F code fg bg x y hok hF hfg hbg =>
      ⟨(drawChar code fg bg x.toInt y.toInt s).respond [], exec_putcharAt_of_ok hfg hbg code x y, ?frame,
        fun xx yy => drawChar_read hF hok code fg bg x.toInt y.toInt,
        fun a => drawChar_read_outside s code fg bg x.toInt y.toInt⟩⟩
  case packet => exact step_of_row_of_reservedZero (ws := [w1, w2]) hp hop rowOf_putcharAt rfl rfl
  case frame => exact congrArg (State.respond []) (drawChar_only_vram s code fg bg x.toInt y.toInt)

/-- Settles O44: the packet is a row of format G, which reserves no bit; the glyph is drawn at the cursor's cell, and then the
cursor moves as it would have before the drawing. -/
theorem putcharDrawsAtTheCursorAndAdvances : Obligations.PutcharDrawsAtTheCursorAndAdvances := by
  refine ⟨fun s w0 rest hp hop => ?packet, fun s code fg bg h => exec_putchar_of_bad_index h code,
    fun s F code fg bg hok hF hfg hbg => ⟨_, exec_putchar_of_ok hF hfg hbg code, ?frame, ?cursor,
      fun xx yy hx hy => ?inside, fun a ha => ?outside⟩⟩
  case packet => exact step_of_row_of_reservedZero (ws := []) hp hop rowOf_putchar rfl rfl
  case frame =>
    rw [advance_drawChar, State.advance_only_cursor]
    rfl
  case cursor =>
    have hcur := State.advance_cursor hok
    rw [State.gridCols, State.gridRows, State.GW, State.GH, State.fontRec_of hF] at hcur
    rw [advance_drawChar]
    exact hcur
  case inside =>
    rw [State.respond_vramRead, State.advance_vramRead, drawChar_read_of_nat hF hok code fg bg _ _ hx hy]
  case outside =>
    rw [State.respond_vramRead, State.advance_vramRead, drawChar_read_outside s code fg bg _ _ ha]

/-- Settles O45: the packet is a row of format W, which reserves w0[23:0]; a remainder is no larger than the value it is of,
so it fits the field. -/
theorem setCursorWrapsIntoTheGrid : Obligations.SetCursorWrapsIntoTheGrid := by
  refine ⟨fun s w0 w1 rest hp hop => ?packet, fun s col row => ⟨_, _, rfl, ?col, ?row⟩⟩
  case packet => exact step_of_row_of_reservedField (ws := [w1]) hp hop rowOf_setCursor rfl rfl
  case col => exact State.setCursor_curCol_toNat ((Nat.mod_le _ _).trans_lt col.isLt) _
  case row => exact State.setCursor_curRow_toNat ((Nat.mod_le _ _).trans_lt row.isLt) _

/-- Settles O46: the packet is a row of format N, which reserves w0[23:0]; the answer is the word of the two stored halves. -/
theorem getCursorAnswersTheStoredCursor : Obligations.GetCursorAnswersTheStoredCursor := by
  refine ⟨fun s w0 rest hp hop => ?packet, fun s => ?answer⟩
  case packet => exact step_of_row_of_reservedField (ws := []) hp hop rowOf_getCursor rfl rfl
  case answer =>
    rw [exec, execGetCursor, Operand.halves_eq_ofNat]
    rfl

/-- Settles O47: the packet is a row of format I24, which reserves no bit; the checks are those of the model. -/
theorem setFontTakesAKnownFontThatFits : Obligations.SetFontTakesAKnownFontThatFits := by
  refine ⟨fun s w0 rest hp hop => ?packet, fun s f => exec_setFont_of_unknown, fun s f F => exec_setFont_of_known⟩
  case packet => exact step_of_row_of_reservedZero (ws := []) hp hop rowOf_setFont rfl rfl

/-- Settles O48: the packet is a row of format N, which reserves w0[23:0]; a zero-extended id is its number as a word. -/
theorem getFontAnswersTheActiveFont : Obligations.GetFontAnswersTheActiveFont := by
  refine ⟨fun s w0 rest hp hop => ?packet, fun s => ?answer⟩
  case packet => exact step_of_row_of_reservedField (ws := []) hp hop rowOf_getFont rfl rfl
  case answer =>
    rw [exec, execGetFont, ← BitVec.ofNat_toNat]
    rfl

end Sys2Proof
end

section
/-! PROOFS. The resolver and SHOW (47_resolve.md R133 to R136). A frame's word is its cell looked up, and under the invariant
every cell has an entry; SHOW alone presents a frame, so every other step leaves the frame log. -/

namespace Sys2Proof
namespace Machine

/-! ### Cells name palette entries -/

namespace State.Inv

variable {s : State} (hs : s.Inv)
include hs

/-- A mode of the table has 16 or 256 colors (R12). -/
theorem nc_eq : s.NC = 16 ∨ s.NC = 256 := by
  obtain ⟨M, hM⟩ := Option.isSome_iff_exists.1 hs.modeKey
  obtain ⟨-, -, -, hNC, -⟩ := Configuration.mode?_ok hs.configOk hM
  rwa [State.NC, State.modeRec_of hM]

/-- A written cell holds an index by the invariant, an unwritten one by its draw (R31). -/
theorem vramRead_lt (a : Nat) : (s.vramRead a).toNat < s.NC := by
  rw [State.vramRead_eq]
  cases hcell : Memory.read? s.vram a with
  | none => exact State.vramFree_lt hs.nc_eq a
  | some v =>
    obtain ⟨c, hfind, rfl⟩ := Option.map_eq_some_iff.1 hcell
    exact (hs.vramCells c (List.mem_of_find?_eq_some hfind)).2

theorem lookup_vramRead (a : Nat) : ∃ c, s.lookup (s.vramRead a) = some c :=
  ⟨_, List.getElem?_eq_getElem (hs.palSize.symm ▸ hs.vramRead_lt a)⟩

end State.Inv

/-! ### The frame resolved -/

theorem resolve_pixels_length (s : State) : (resolve s).pixels.length = s.W * s.H := by
  rw [resolve, List.length_map, List.length_range]

theorem getElem?_resolve_pixels {s : State} {a : Nat} (ha : a < s.W * s.H) :
    (resolve s).pixels[a]? = some (resolveCell s a) := by
  rw [resolve, List.getElem?_map, List.getElem?_range ha, Option.map_some]

theorem resolveCell_of_lookup {s : State} {a : Nat} {c : Color} (hc : s.lookup (s.vramRead a) = some c) :
    resolveCell s a = c.toPacked := by
  rw [resolveCell, hc, Option.getD_some]

/-- A cell's word is read from the cell and the entry it names, and from nothing else (R134). -/
theorem resolveCell_congr {s s' : State} {a : Nat} (hcell : s.vramRead a = s'.vramRead a)
    (hentry : s.pal[(s.vramRead a).toNat]? = s'.pal[(s.vramRead a).toNat]?) : resolveCell s a = resolveCell s' a := by
  rw [resolveCell, resolveCell, State.lookup, State.lookup, hentry, hcell]

/-! ### Which commands present a frame -/

theorem exec_showFrame_of_surface {s : State} (h : s.surf = true) :
    exec .showFrame s = .next ((s.emit (.present (resolve s))).respond []) := by
  rw [exec, execShow, if_pos h]

theorem exec_showFrame_of_no_surface {s : State} (h : s.surf = false) :
    exec .showFrame s = .next (s.raise .resourceCreationFailed) := by
  rw [exec, execShow, h]
  rfl

/-- Handing a surface over sends a release and an acquire, and no frame. -/
theorem frameLog_switchMode (m : Id24) (M : ModeRecord) (granted : Bool) (s : State) :
    (s.switchMode m M granted).frameLog = s.frameLog := by
  have hlog : (s.switchMode m M granted).portLog = (s.handOver M granted).portLog := by cases granted <;> rfl
  rw [State.frameLog, hlog, State.handOver_eq]
  cases s.surf <;> simp [State.frameLog]

theorem frameLog_spriteBlit (x y : Int) (w h : Nat) (pix : List Byte) (s : State) :
    (spriteBlit x y w h pix s).frameLog = s.frameLog := by
  rw [spriteBlit_only_vram]
  rfl

theorem frameLog_advance (s : State) : s.advance.frameLog = s.frameLog := by
  rw [State.advance_only_cursor]
  rfl

/-- A check leaves the frame log when both of its outcomes do. -/
theorem frameLog_ite {c : Prop} [Decidable c] {s t u : State} (ht : t.frameLog = s.frameLog)
    (hu : u.frameLog = s.frameLog) : (if c then t else u).frameLog = s.frameLog := by
  split
  · exact ht
  · exact hu

/-- The core presents a frame only when it runs SHOW (R135). -/
theorem exec_frameLog {i : Instr} {s t : State} (hi : i ≠ .showFrame) (h : exec i s = .next t) :
    t.frameLog = s.frameLog := by
  cases i with cases h
  | setMode m =>
    split
    · rfl
    · exact frameLog_switchMode _ _ _ s
  | setPalette colors => exact frameLog_ite rfl rfl
  | setColor idx c => exact frameLog_ite rfl rfl
  | getColor idx =>
    refine frameLog_ite rfl ?_
    split <;> rfl
  | resetPalette => rfl
  | setPixel idx x y => exact frameLog_ite rfl (frameLog_ite rfl rfl)
  | getPixel x y => exact frameLog_ite rfl rfl
  | blitFull pix => exact frameLog_ite rfl (frameLog_ite rfl rfl)
  | blitSprite x y w h pix => exact frameLog_ite rfl (frameLog_ite (frameLog_spriteBlit _ _ _ _ _ s) rfl)
  | putcharAt code fg bg x y => exact frameLog_ite rfl (frameLog_spriteBlit _ _ _ _ _ s)
  | putchar code fg bg =>
    exact frameLog_ite rfl ((frameLog_advance _).trans (frameLog_spriteBlit _ _ _ _ _ s))
  | setCursor col row => rfl
  | getCursor => rfl
  | setFont f =>
    split
    · rfl
    · exact frameLog_ite rfl rfl
  | getFont => rfl
  | getGlyph f code fg bg => split <;> rfl
  | fontSize f => split <;> rfl
  | showFrame => exact absurd rfl hi

/-- SHOW presents the resolve of the state it runs in, or nothing. -/
theorem exec_showFrame_frameLog {s t : State} (h : exec .showFrame s = .next t) :
    t.frameLog = s.frameLog ∨
      (t.frameLog = s.frameLog ++ [resolve s] ∧ t.pal = s.pal ∧ ∀ a, t.vramRead a = s.vramRead a) := by
  cases hsurf : s.surf with
  | false =>
    cases (exec_showFrame_of_no_surface hsurf).symm.trans h
    exact .inl rfl
  | true =>
    cases (exec_showFrame_of_surface hsurf).symm.trans h
    exact .inr ⟨s.frameLog_append _, rfl, fun _ => rfl⟩

end Machine

open Machine

/-- Settles O25: a hold and an illegal packet present nothing, nor does a command other than SHOW; SHOW presents the resolve,
which taking its packet off the port does not change. -/
theorem presentedFramesAreSnapshots : Obligations.PresentedFramesAreSnapshots := by
  intro s t hstep
  rcases step_cases hstep with ⟨-, rfl⟩ | ⟨_, _, -, rfl⟩ | ⟨i, n, hdecode, hexec⟩
  · exact .inl rfl
  · exact .inl rfl
  · by_cases hi : i = .showFrame
    · subst hi
      exact (exec_showFrame_frameLog hexec).imp id fun hframe => ⟨⟨n, hdecode⟩, hframe⟩
    · exact .inl (exec_frameLog (s := s.accept n) hi hexec)

/-- Settles O26: each word is the resolve of its own cell. -/
theorem resolveIsALookupPerCell : Obligations.ResolveIsALookupPerCell := by
  refine ⟨fun s s' a ha ha' hcell hentry => ?_, resolve_pixels_length⟩
  rw [getElem?_resolve_pixels ha, getElem?_resolve_pixels ha', resolveCell_congr hcell hentry]

/-- Settles O52: the packet is a row of format N, which reserves w0[23:0]; the frame presented is the resolve, and under the
invariant every cell has a palette entry. -/
theorem showPresentsTheResolvedFrame : Obligations.ShowPresentsTheResolvedFrame := by
  refine ⟨fun s w0 rest hp hop => ?packet, fun s => exec_showFrame_of_no_surface, fun s hsurf hs =>
    ⟨resolve s, exec_showFrame_of_surface hsurf, rfl, rfl, rfl, resolve_pixels_length s, fun a ha => ?word⟩⟩
  case packet => exact step_of_row_of_reservedField (ws := []) hp hop rowOf_showFrame rfl rfl
  case word =>
    obtain ⟨c, hc⟩ := hs.lookup_vramRead a
    refine ⟨c, hc, ?_⟩
    rw [getElem?_resolve_pixels ha, resolveCell_of_lookup hc, Color.toPacked_eq_ofNat]

end Sys2Proof
end

section
/-! PROOFS. Completions (60_exceptions.md R137 to R139). Every command ends by one completion and leaves the command
port alone, and its status is the first of the errors that apply. Both are read off the command's branches once, in
`exec_reports`. -/

namespace Sys2Proof
namespace Machine

/-! ### The first error in the check order -/

/-- The error that comes first in the check order (R139), OK when there is none. -/
def firstError (causes : List Status) : Status := (causes.argmin Status.checkOrder).getD .ok

@[simp] theorem firstError_nil : firstError [] = .ok := rfl

@[simp] theorem firstError_singleton (e : Status) : firstError [e] = e := rfl

@[simp] theorem firstError_pair (e f : Status) :
    firstError [e, f] = if f.checkOrder < e.checkOrder then f else e := by
  rw [firstError, List.argmin_cons, List.argmin_singleton]
  exact apply_ite (Option.getD · Status.ok) _ _ _

theorem firstError_spec {causes : List Status} (h : causes ≠ []) :
    firstError causes ∈ causes ∧ ∀ e ∈ causes, (firstError causes).checkOrder ≤ e.checkOrder := by
  obtain ⟨e, he⟩ := Option.ne_none_iff_exists'.1 (mt (List.argmin_eq_none (f := Status.checkOrder)).1 h)
  rw [firstError, he, Option.getD_some]
  exact ⟨List.argmin_mem he, fun _ hmem => List.le_of_mem_argmin hmem he⟩

/-! ### What leaves the ports alone -/

/-- `t` has the completions, the packet buffer and the command port of `s`. -/
structure SamePorts (s t : State) : Prop where
  completions : t.completions = s.completions
  packetBuf : t.packetBuf = s.packetBuf
  port : t.port = s.port

namespace SamePorts

theorem refl (s : State) : SamePorts s s := ⟨rfl, rfl, rfl⟩

theorem handOver (M : ModeRecord) (granted : Bool) (s : State) : SamePorts s (s.handOver M granted) := by
  rw [State.handOver_eq]
  exact ⟨rfl, rfl, rfl⟩

theorem enterMode (m : Id24) (M : ModeRecord) {s t : State} (h : SamePorts s t) : SamePorts s (t.enterMode m M) :=
  ⟨h.completions, h.packetBuf, h.port⟩

theorem spriteBlit (x y : Int) (w h : Nat) (pix : List Byte) (s : State) :
    SamePorts s (spriteBlit x y w h pix s) := by
  rw [spriteBlit_only_vram]
  exact ⟨rfl, rfl, rfl⟩

theorem drawChar (code fg bg : Byte) (x y : Int) (s : State) : SamePorts s (drawChar code fg bg x y s) :=
  spriteBlit x y s.GW s.GH _ s

theorem advance {s t : State} (h : SamePorts s t) : SamePorts s t.advance := by
  rw [State.advance_only_cursor]
  exact ⟨h.completions, h.packetBuf, h.port⟩

end SamePorts

/-! ### One completion, of the first error that applies -/

/-- `t` is reached from `s` with `c` as the one new completion, which carries data only when it is OK, and no word of
the port is received on the way (R137). -/
structure Completes (s t : State) (c : Completion) : Prop where
  completions : t.completions = s.completions ++ [c]
  errorEmpty : c.status ≠ .ok → c.data = []
  packetBuf : t.packetBuf = s.packetBuf
  port : t.port = s.port

/-- The command runs to one completion, and in a state whose palette has its size the status is the first of the errors
that apply (R137 to R139). -/
def Reports (i : Instr) (s : State) : Prop :=
  ∃ t c, exec i s = .next t ∧ Completes s t c ∧ (s.pal.length = s.NC → c.status = firstError (errorCauses i s))

section Rules

variable {i : Instr} {s u : State}

theorem completes_complete (hu : SamePorts s u) {e : Status} {data : List Word} (hdata : e ≠ .ok → data = []) :
    Completes s (u.complete e data) ⟨e, data⟩ where
  completions := by rw [State.complete_completions, hu.completions]
  errorEmpty := hdata
  packetBuf := hu.packetBuf
  port := hu.port

theorem reports_of_raise {e : Status} (h : exec i s = .next (u.raise e)) (hu : SamePorts s u)
    (he : s.pal.length = s.NC → firstError (errorCauses i s) = e) : Reports i s :=
  ⟨u.raise e, ⟨e, []⟩, h, completes_complete hu fun _ => rfl, fun hpal => (he hpal).symm⟩

theorem reports_of_respond {data : List Word} (h : exec i s = .next (u.respond data)) (hu : SamePorts s u)
    (he : errorCauses i s = []) : Reports i s :=
  ⟨u.respond data, ⟨.ok, data⟩, h, completes_complete hu fun hne => absurd rfl hne, fun _ => by
    rw [he, firstError_nil]⟩

end Rules

/-! ### The branches no equation above gives -/

section Branches

variable {s : State} {m f : Id24} {M : ModeRecord}

theorem exec_setMode_of_unknown (hm : s.config.mode? m = none) :
    exec (.setMode m) s = .next (s.raise .unknownMode) := by
  rw [exec, execSetMode, hm]

theorem exec_setMode_of_refused (hM : s.config.mode? m = some M) (hg : Config.surfaceAcquire s.acquisitions = false) :
    exec (.setMode m) s = .next ((s.handOver M false).raise .resourceCreationFailed) := by
  rw [exec, execSetMode, hM, hg]
  rfl

theorem exec_setMode_of_granted (hM : s.config.mode? m = some M) (hg : Config.surfaceAcquire s.acquisitions = true) :
    exec (.setMode m) s = .next (((s.handOver M true).enterMode m M).respond []) := by
  rw [exec, execSetMode, hM, hg]
  rfl

/-- `Lookup` without a value is OutOfRange too, below `NC` in states no run reaches (R111). -/
theorem exec_getColor_of_no_entry {idx : Byte} (h : s.lookup idx = none) :
    exec (.getColor idx) s = .next (s.raise .outOfRange) := by
  rw [exec, execGetColor, h, ite_self]

/-- PUTCHAR in any state, whether or not `FONT` names a font. -/
theorem exec_putchar_of_indices {fg bg : Byte} (h : ¬ (s.NC ≤ fg.toNat ∨ s.NC ≤ bg.toNat)) (code : Byte) :
    exec (.putchar code fg bg) s = .next
      ((drawChar code fg bg (s.curCol.toNat * s.GW : Nat) (s.curRow.toNat * s.GH : Nat) s).advance.respond []) := by
  rw [exec, execPutchar, if_neg h]

theorem exec_fontSize_of_unknown (hf : s.config.font? f = none) :
    exec (.fontSize f) s = .next (s.raise .invalidArgument) := by
  rw [exec, execFontSize, hf]

theorem exec_fontSize_of_known {F : FontRecord} (hF : s.config.font? f = some F) :
    exec (.fontSize f) s =
      .next (s.respond [Operand.halves (heightField F.GH) (BitVec.ofNat 16 F.GW)]) := by
  rw [exec, execFontSize, hF]

end Branches

/-! ### The commands with more than one check -/

theorem setMode_reports (m : Id24) (s : State) : Reports (.setMode m) s := by
  cases hm : s.config.mode? m with
  | none => exact reports_of_raise (exec_setMode_of_unknown hm) (.refl s) fun _ => by simp [errorCauses, hm]
  | some M =>
    cases hg : Config.surfaceAcquire s.acquisitions with
    | false =>
      exact reports_of_raise (exec_setMode_of_refused hm hg) (.handOver M false s) fun _ => by
        simp [errorCauses, hm, hg]
    | true =>
      exact reports_of_respond (exec_setMode_of_granted hm hg) ((SamePorts.handOver M true s).enterMode m M) (by
        simp [errorCauses, hm, hg])

theorem getColor_reports (idx : Byte) (s : State) : Reports (.getColor idx) s := by
  by_cases h : s.NC ≤ idx.toNat
  · exact reports_of_raise (exec_getColor_of_le h) (.refl s) fun _ => by simp [errorCauses, h]
  · cases hc : s.lookup idx with
    | none =>
      have hshort : s.pal.length ≤ idx.toNat := List.getElem?_eq_none_iff.1 hc
      exact reports_of_raise (exec_getColor_of_no_entry hc) (.refl s) fun hpal => absurd (hpal ▸ hshort) h
    | some c =>
      exact reports_of_respond (exec_getColor_of_lookup (not_le.1 h) hc) (.refl s) (by simp [errorCauses, h])

/-- Both checks of SET_PIXEL raise OutOfRange, so their order does not show. -/
theorem setPixel_reports (idx : Byte) (x y : BitVec 16) (s : State) : Reports (.setPixel idx x y) s := by
  by_cases hxy : s.W ≤ x.toNat ∨ s.H ≤ y.toNat
  · refine reports_of_raise (exec_setPixel_of_out (or_assoc.1 (.inl hxy))) (.refl s) fun _ => ?_
    by_cases hidx : s.NC ≤ idx.toNat <;> simp [errorCauses, hxy, hidx]
  · by_cases hidx : s.NC ≤ idx.toNat
    · exact reports_of_raise (exec_setPixel_of_out (.inr (.inr hidx))) (.refl s) fun _ => by
        simp [errorCauses, hxy, hidx]
    · obtain ⟨hx, hy⟩ := not_or.1 hxy
      exact reports_of_respond (exec_setPixel_of_in (not_le.1 hx) (not_le.1 hy) (not_le.1 hidx)) ⟨rfl, rfl, rfl⟩ (by
        simp [errorCauses, hxy, hidx])

/-- BLIT_FULL checks its count first, and InvalidArgument comes before OutOfRange. -/
theorem blitFull_reports (pix : List Byte) (s : State) : Reports (.blitFull pix) s := by
  by_cases hlen : pix.length = s.W * s.H
  · by_cases hbad : ∃ p ∈ pix, s.NC ≤ p.toNat
    · exact reports_of_raise (exec_blitFull_of_bad_index hlen hbad) (.refl s) fun _ => by
        simp [errorCauses, hlen, hbad]
    · have hok : ∀ p ∈ pix, p.toNat < s.NC := by simpa using hbad
      exact reports_of_respond (exec_blitFull_of_ok hlen hok) ⟨rfl, rfl, rfl⟩ (by simp [errorCauses, hlen, hbad])
  · refine reports_of_raise (exec_blitFull_of_length_ne hlen) (.refl s) fun _ => ?_
    by_cases hbad : ∃ p ∈ pix, s.NC ≤ p.toNat <;> simp [errorCauses, hlen, hbad, Status.checkOrder]

/-- BLIT_SPRITE checks its size first, and InvalidArgument comes before OutOfRange. -/
theorem blitSprite_reports (x y : Word) (w h : BitVec 16) (pix : List Byte) (s : State) :
    Reports (.blitSprite x y w h pix) s := by
  by_cases hwh : w.toNat = 0 ∨ h.toNat = 0
  · refine reports_of_raise (exec_blitSprite_of_size_zero (hwh.imp Nat.lt_one_iff.2 Nat.lt_one_iff.2)) (.refl s)
      fun _ => ?_
    by_cases hbad : ∃ p ∈ pix, s.NC ≤ p.toNat <;> simp [errorCauses, hwh, hbad, Status.checkOrder]
  · obtain ⟨hw, hh⟩ := (not_or.1 hwh).imp Nat.one_le_iff_ne_zero.2 Nat.one_le_iff_ne_zero.2
    by_cases hbad : ∃ p ∈ pix, s.NC ≤ p.toNat
    · exact reports_of_raise (exec_blitSprite_of_bad_index hw hh hbad) (.refl s) fun _ => by
        simp [errorCauses, hwh, hbad]
    · have hok : ∀ p ∈ pix, p.toNat < s.NC := by simpa using hbad
      exact reports_of_respond (exec_blitSprite_of_ok hw hh hok) (.spriteBlit _ _ _ _ pix s) (by
        simp [errorCauses, hwh, hbad])

theorem setFont_reports (f : Id24) (s : State) : Reports (.setFont f) s := by
  cases hF : s.config.font? f with
  | none => exact reports_of_raise (exec_setFont_of_unknown hF) (.refl s) fun _ => by simp [errorCauses, hF]
  | some F =>
    have hexec := exec_setFont_of_known hF
    by_cases hfit : s.W < F.GW ∨ s.H < F.GH
    · rw [if_pos hfit] at hexec
      exact reports_of_raise hexec (.refl s) fun _ => by simp [errorCauses, hF, hfit]
    · rw [if_neg hfit] at hexec
      exact reports_of_respond hexec ⟨rfl, rfl, rfl⟩ (by simp [errorCauses, hF, hfit])

/-! ### Every command -/

/-- Every branch of every command raises the first error that applies, or responds where none does. -/
theorem exec_reports (i : Instr) (s : State) : Reports i s := by
  cases i with
  | setMode m => exact setMode_reports m s
  | setPalette colors =>
    by_cases h : s.NC < colors.length
    · exact reports_of_raise (exec_setPalette_of_lt h) (.refl s) fun _ => by simp [errorCauses, h]
    · exact reports_of_respond (exec_setPalette_of_le (not_lt.1 h)) ⟨rfl, rfl, rfl⟩ (by simp [errorCauses, h])
  | setColor idx c =>
    by_cases h : s.NC ≤ idx.toNat
    · exact reports_of_raise (exec_setColor_of_le h c) (.refl s) fun _ => by simp [errorCauses, h]
    · exact reports_of_respond (exec_setColor_of_lt (not_le.1 h) c) ⟨rfl, rfl, rfl⟩ (by simp [errorCauses, h])
  | getColor idx => exact getColor_reports idx s
  | resetPalette => exact reports_of_respond (exec_resetPalette s) ⟨rfl, rfl, rfl⟩ rfl
  | setPixel idx x y => exact setPixel_reports idx x y s
  | getPixel x y =>
    by_cases hxy : s.W ≤ x.toNat ∨ s.H ≤ y.toNat
    · exact reports_of_raise (exec_getPixel_of_out hxy) (.refl s) fun _ => by simp [errorCauses, hxy]
    · obtain ⟨hx, hy⟩ := not_or.1 hxy
      exact reports_of_respond (exec_getPixel_of_in (not_le.1 hx) (not_le.1 hy)) (.refl s) (by simp [errorCauses, hxy])
  | blitFull pix => exact blitFull_reports pix s
  | blitSprite x y w h pix => exact blitSprite_reports x y w h pix s
  | putcharAt code fg bg x y =>
    by_cases h : s.NC ≤ fg.toNat ∨ s.NC ≤ bg.toNat
    · exact reports_of_raise (exec_putcharAt_of_bad_index h code x y) (.refl s) fun _ => by simp [errorCauses, h]
    · obtain ⟨hfg, hbg⟩ := not_or.1 h
      exact reports_of_respond (exec_putcharAt_of_ok (not_le.1 hfg) (not_le.1 hbg) code x y)
        (.drawChar code fg bg _ _ s) (by simp [errorCauses, h])
  | putchar code fg bg =>
    by_cases h : s.NC ≤ fg.toNat ∨ s.NC ≤ bg.toNat
    · exact reports_of_raise (exec_putchar_of_bad_index h code) (.refl s) fun _ => by simp [errorCauses, h]
    · exact reports_of_respond (exec_putchar_of_indices h code) (SamePorts.drawChar code fg bg _ _ s).advance (by
        simp [errorCauses, h])
  | setCursor col row => exact reports_of_respond rfl ⟨rfl, rfl, rfl⟩ rfl
  | getCursor => exact reports_of_respond rfl (.refl s) rfl
  | setFont f => exact setFont_reports f s
  | getFont => exact reports_of_respond rfl (.refl s) rfl
  | getGlyph f code fg bg =>
    cases hF : s.config.font? f with
    | none =>
      exact reports_of_raise (exec_getGlyph_of_unknown hF code fg bg) (.refl s) fun _ => by simp [errorCauses, hF]
    | some F => exact reports_of_respond (exec_getGlyph_of_known hF code fg bg) (.refl s) (by simp [errorCauses, hF])
  | fontSize f =>
    cases hF : s.config.font? f with
    | none => exact reports_of_raise (exec_fontSize_of_unknown hF) (.refl s) fun _ => by simp [errorCauses, hF]
    | some F => exact reports_of_respond (exec_fontSize_of_known hF) (.refl s) (by simp [errorCauses, hF])
  | showFrame =>
    cases hsurf : s.surf with
    | false =>
      exact reports_of_raise (exec_showFrame_of_no_surface hsurf) (.refl s) fun _ => by simp [errorCauses, hsurf]
    | true =>
      exact reports_of_respond (exec_showFrame_of_surface hsurf) ⟨rfl, rfl, rfl⟩ (by simp [errorCauses, hsurf])

/-- A step on a whole packet takes it off the port and completes once, whether the packet is illegal or a command. -/
theorem step_completes {s : State} {n : Nat} (hl : packetLen s.pending = some n) (hn : n ≤ s.pending.length) :
    ∃ t c, step s = .next t ∧ Completes (s.accept n) t c := by
  cases hd : decodePacket (s.pending.take n) with
  | inl why =>
    exact ⟨_, _, step_of_illegal (decode_of_illegal hl hn hd), completes_complete (.refl _) fun _ => rfl⟩
  | inr i =>
    obtain ⟨t, c, hexec, hc, -⟩ := exec_reports i (s.accept n)
    exact ⟨t, c, (step_of_command (decode_of_command hl hn hd)).trans hexec, hc⟩

end Machine

open Machine

/-- Settles O11: a step on a whole packet completes once, from the state with the packet taken; the codes are R137's. -/
theorem everyPacketGetsOneCompletion : Obligations.EveryPacketGetsOneCompletion := by
  refine ⟨fun s n hl hn => ?_, by decide⟩
  obtain ⟨t, c, hstep, hc⟩ := step_completes hl hn
  exact ⟨t, c, hstep, hc.completions, hc.errorEmpty, hc.packetBuf, hc.port⟩

/-- Settles O15: an illegal packet raises IllegalCommand, and a command reports the first error that applies, which is a
least one in the check order. -/
theorem statusIsTheFirstErrorThatApplies : Obligations.StatusIsTheFirstErrorThatApplies := by
  refine ⟨fun s why n hdec => ⟨_, step_of_illegal hdec, rfl⟩, fun i s hpal => ?command, by decide⟩
  case command =>
    obtain ⟨t, c, hexec, hc, hstatus⟩ := exec_reports i s
    have hfirst := hstatus hpal
    refine ⟨t, c, hexec, hc.completions, hc.errorEmpty, fun hnone => ?_, fun hsome => ?_⟩
    · rw [hfirst, hnone, firstError_nil]
    · exact hfirst ▸ firstError_spec hsome

end Sys2Proof
end

section
/-! PROOFS. The round trips of the encoding (30_encoding.md R57 to R72). A packet is read from its own words, whatever
follows them. So the decoder has one inverse on each side: what it reads was a whole packet of some row, and what the
encoder writes is one. -/

namespace Sys2Proof

open Operand Laws

/-! ### A packet is read from its own words -/

theorem formatLen_append {f : Format} {ws : List Word} {n : Nat} (h : formatLen f ws = some n) (hne : ws ≠ [])
    (rest : List Word) : formatLen f (ws ++ rest) = some n := by
  have hw0 : wordAt (ws ++ rest) 0 = wordAt ws 0 := wordAt_append (List.length_pos_of_ne_nil hne) rest
  cases f
  case lColors => rwa [formatLen, hw0]
  case lBytes => rwa [formatLen, hw0]
  case s =>
    by_cases hlen : ws.length < 4
    · rw [formatLen, if_pos hlen] at h
      exact absurd h nofun
    · rw [formatLen, if_neg hlen] at h
      rwa [formatLen, if_neg (by rw [List.length_append]; omega), spriteArea, wordAt_append (by omega)]
  all_goals exact h

theorem packetLen_append {ws : List Word} {n : Nat} (h : packetLen ws = some n) (rest : List Word) :
    packetLen (ws ++ rest) = some n := by
  have hne := ne_nil_of_packetLen h
  have hw0 : wordAt (ws ++ rest) 0 = wordAt ws 0 := wordAt_append (List.length_pos_of_ne_nil hne) rest
  have hne' : ws ++ rest ≠ [] := List.append_ne_nil_of_left_ne_nil hne rest
  cases hrow : rowOf (opcode (wordAt ws 0)) with
  | none => rwa [packetLen_of_unlisted hne' (hw0 ▸ hrow), ← packetLen_of_unlisted hne hrow]
  | some row =>
    rw [packetLen_of_row hne' (hw0 ▸ hrow)]
    exact formatLen_append ((packetLen_of_row hne hrow).symm.trans h) hne rest

theorem decode_eq_command {ws : List Word} {i : Instr} {n : Nat} (h : decode ws = .command i n) :
    packetLen ws = some n ∧ n ≤ ws.length ∧ decodePacket (ws.take n) = .inr i := by
  rcases decode_cases ws with ⟨h', -⟩ | ⟨m, hlen, hm, ⟨_, -, h'⟩ | ⟨j, hpacket, h'⟩⟩
  · exact absurd (h.symm.trans h') nofun
  · exact absurd (h.symm.trans h') nofun
  · cases h.symm.trans h'
    exact ⟨hlen, hm, hpacket⟩

/-- The words after a command do not change how it is read. -/
theorem decode_append_of_command {ws : List Word} {i : Instr} {n : Nat} (h : decode ws = .command i n)
    (rest : List Word) : decode (ws ++ rest) = .command i n := by
  obtain ⟨hlen, hn, hpacket⟩ := decode_eq_command h
  refine decode_of_command (packetLen_append hlen rest) (by rw [List.length_append]; omega) ?_
  rwa [List.take_append_of_le_length hn]

/-! ### Whole packets -/

/-- `p` is a whole packet of the row `op`, and no reserved bit of it is set. -/
structure IsPacket (op : Op) (f : Format) (p : List Word) : Prop where
  row : rowOf (opcode (wordAt p 0)) = some (op, f)
  length : formatLen f p = some p.length
  reserved : reservedZero f p = true

theorem formatLen_take {f : Format} {ws : List Word} {n : Nat} (h : formatLen f ws = some n) (hn : n ≤ ws.length) :
    formatLen f (ws.take n) = some n := by
  have hw0 : wordAt (ws.take n) 0 = wordAt ws 0 := wordAt_take (formatLen_pos h)
  cases f
  case lColors => rwa [formatLen, hw0]
  case lBytes => rwa [formatLen, hw0]
  case s =>
    by_cases hlen : ws.length < 4
    · rw [formatLen, if_pos hlen] at h
      exact absurd h nofun
    · rw [formatLen, if_neg hlen] at h
      have hn4 : 4 + ceil4 (spriteArea ws) = n := Option.some.inj h
      rwa [formatLen, if_neg (by rw [List.length_take]; omega), spriteArea, wordAt_take (by omega)]
  all_goals exact h

/-- A command the decoder reads is built of a whole packet, the words it takes. -/
theorem isPacket_of_decode {ws : List Word} {i : Instr} {n : Nat} (h : decode ws = .command i n) :
    n ≤ ws.length ∧ ∃ op f, IsPacket op f (ws.take n) ∧ build op (ws.take n) = i := by
  obtain ⟨hlen, hn, hpacket⟩ := decode_eq_command h
  have hw0 : wordAt (ws.take n) 0 = wordAt ws 0 := wordAt_take (packetLen_pos hlen)
  cases hrow : rowOf (opcode (wordAt (ws.take n) 0)) with
  | none => exact absurd ((decodePacket_of_unlisted hrow).symm.trans hpacket) nofun
  | some row =>
    obtain ⟨op, f⟩ := row
    have hformat : formatLen f ws = some n :=
      (packetLen_of_row (ne_nil_of_packetLen hlen) (hw0 ▸ hrow)).symm.trans hlen
    rw [decodePacket_of_row hrow] at hpacket
    split at hpacket
    · next hres =>
      have hlength : (ws.take n).length = n := List.length_take_of_le hn
      exact ⟨hn, op, f, ⟨hrow, by rw [formatLen_take hformat hn, hlength], hres⟩, Sum.inr.inj hpacket⟩
    · exact absurd hpacket nofun

/-! ### The encoder writes whole packets -/

theorem decode_encode_of_row {i : Instr} {op : Op} {f : Format} (hheader : Header.Statement i)
    (hrow : rowOf (Header.opcodeOf i) = some (op, f))
    (hlen : formatLen f (encode i) = some (encode i).length) (hbuild : build op (encode i) = i) :
    decode (encode i) = .command i (encode i).length := by
  obtain ⟨w0, rest, op', f', hwords, hop, hrow', hres⟩ := hheader
  cases hrow.symm.trans hrow'
  have h := decode_of_row (by rw [hwords, wordAt_cons_zero, hop, hrow]) hlen hres
  rwa [hbuild] at h

theorem low24_header24_ofNat {n : Nat} (h : n < 2 ^ 24) (op : Byte) :
    (low24 (header24 op (BitVec.ofNat 24 n))).toNat = n := by
  rw [low24_header24, BitVec.toNat_ofNat, Nat.mod_eq_of_lt h]

theorem decode_encode_setPalette {cs : List Color} (h : cs.length < 2 ^ 24) :
    decode (encode (.setPalette cs)) = .command (.setPalette cs) (encode (.setPalette cs)).length := by
  have hcount : (low24 (wordAt (encode (.setPalette cs)) 0)).toNat = cs.length := low24_header24_ofNat h 0x02
  refine decode_encode_of_row (Header.setPalette cs) rowOf_setPalette ?_ ?_
  · rw [formatLen, hcount, encode, List.length_cons, List.length_map, Nat.add_comm]
  · rw [build, hcount, encode, List.drop_succ_cons, List.drop_zero, List.take_of_length_le (by simp),
      map_fromPacked_toPacked]

theorem decode_encode_blitFull {pix : List Byte} (h : pix.length < 2 ^ 24) :
    decode (encode (.blitFull pix)) = .command (.blitFull pix) (encode (.blitFull pix)).length := by
  have hcount : (low24 (wordAt (encode (.blitFull pix)) 0)).toNat = pix.length := low24_header24_ofNat h 0x12
  refine decode_encode_of_row (Header.blitFull pix) rowOf_blitFull ?_ ?_
  · rw [formatLen, hcount, encode, List.length_cons, pack_length, Nat.add_comm]
  · rw [build, hcount, encode, List.drop_succ_cons, List.drop_zero, unpack_pack]

/-- The encoder's packet of a well-formed command is read back. -/
theorem decode_encode {i : Instr} (hi : i.WellFormed) : decode (encode i) = .command i (encode i).length := by
  cases i with
  | setMode m => exact decode_encode_of_row (Header.setMode m) rowOf_setMode rfl (by simp [build, encode, wordAt])
  | setPalette cs => exact decode_encode_setPalette (of_decide_eq_true hi)
  | setColor idx c =>
    exact decode_encode_of_row (Header.setColor idx c) rowOf_setColor rfl
      (by simp [build, encode, wordAt, Color.fromPacked_toPacked])
  | getColor idx =>
    exact decode_encode_of_row (Header.getColor idx) rowOf_getColor rfl (by simp [build, encode, wordAt])
  | resetPalette => exact decode_encode_of_row Header.resetPalette rowOf_resetPalette rfl rfl
  | setPixel idx x y =>
    exact decode_encode_of_row (Header.setPixel idx x y) rowOf_setPixel rfl (by simp [build, encode, wordAt])
  | getPixel x y =>
    exact decode_encode_of_row (Header.getPixel x y) rowOf_getPixel rfl (by simp [build, encode, wordAt])
  | blitFull pix => exact decode_encode_blitFull (of_decide_eq_true hi)
  | blitSprite x y w h pix =>
    rw [decode_encode_blitSprite (of_decide_eq_true hi), encode_blitSprite_length]
  | putcharAt code fg bg x y =>
    exact decode_encode_of_row (Header.putcharAt code fg bg x y) rowOf_putcharAt rfl (by simp [build, encode, wordAt])
  | putchar code fg bg =>
    exact decode_encode_of_row (Header.putchar code fg bg) rowOf_putchar rfl (by simp [build, encode, wordAt])
  | setCursor col row =>
    exact decode_encode_of_row (Header.setCursor col row) rowOf_setCursor rfl (by simp [build, encode, wordAt])
  | getCursor => exact decode_encode_of_row Header.getCursor rowOf_getCursor rfl rfl
  | setFont f =>
    exact decode_encode_of_row (Header.setFont f) rowOf_setFont rfl (by simp [build, encode, wordAt])
  | getFont => exact decode_encode_of_row Header.getFont rowOf_getFont rfl rfl
  | getGlyph f code fg bg =>
    exact decode_encode_of_row (Header.getGlyph f code fg bg) rowOf_getGlyph rfl (by simp [build, encode, wordAt])
  | fontSize f =>
    exact decode_encode_of_row (Header.fontSize f) rowOf_fontSize rfl (by simp [build, encode, wordAt])
  | showFrame => exact decode_encode_of_row Header.showFrame rowOf_showFrame rfl rfl

/-! ### A whole packet is the encoder's, but for the ignored bits -/

theorem header24_of_opcode {w : Word} {op : Byte} (h : opcode w = op) : header24 op (low24 w) = w :=
  BitVec.eq_of_toNat_eq (by rw [header24_toNat, ← h, opcode_toNat, low24_toNat]; omega)

theorem header24_of_low24 {w : Word} {op : Byte} {m : BitVec 24} (h : opcode w = op) (hm : low24 w = m) :
    header24 op m = w := hm ▸ header24_of_opcode h

theorem header8_of_opcode {w : Word} {op : Byte} (h : opcode w = op) (hm : mid16 w = 0) : header8 op (low8 w) = w := by
  have hzero : w.toNat / 2 ^ 8 % 2 ^ 16 = 0 := by rw [← mid16_toNat, hm]; rfl
  exact BitVec.eq_of_toNat_eq (by rw [header8_toNat, ← h, opcode_toNat, low8, extract_toNat]; omega)

theorem headerG_of_opcode {w : Word} {op : Byte} (h : opcode w = op) :
    headerG op (bgField w) (fgField w) (low8 w) = w :=
  BitVec.eq_of_toNat_eq (by
    rw [headerG_toNat, ← h, opcode_toNat, bgField, fgField, low8, extract_toNat, extract_toNat, extract_toNat]
    omega)

@[simp] theorem halves_highHalf_lowHalf (w : Word) : halves (highHalf w) (lowHalf w) = w :=
  BitVec.eq_of_toNat_eq (by rw [halves_toNat, highHalf_toNat, lowHalf_toNat]; omega)

/-- The opcode and the format of a row, looked up in the opcode map. -/
def Op.header (op : Op) : Byte × Format :=
  ((opcodeMap.find? (fun row => row.2.1 == op)).map (fun row => (row.1, row.2.2))).getD (0, .n)

theorem header_eq_of_rowOf {o : Byte} {op : Op} {f : Format} (h : rowOf o = some (op, f)) : (o, f) = op.header := by
  have hmap : ∀ row ∈ opcodeMap, (row.1, row.2.2) = row.2.1.header := by decide
  exact hmap _ (mem_opcodeMap_of_rowOf h)

/-- The rows whose packets carry bits the decoder ignores: COLOR words (R61), and payload padding (R45). -/
def Op.ignoresBits (op : Op) : Bool :=
  op == .setPalette || op == .setColor || op == .blitFull || op == .blitSprite

section Packet

variable {f : Format} {p : List Word}

/-- Of a row without ignored bits the packet is exactly the encoding of its command. -/
theorem encode_build {op : Op} (h : IsPacket op f p) (hop : op.ignoresBits = false) : encode (build op p) = p := by
  obtain ⟨hrow, hlen, hres⟩ := h
  obtain ⟨ho, rfl⟩ := Prod.mk.inj (header_eq_of_rowOf hrow)
  cases op
  case setMode | setFont | fontSize =>
    obtain ⟨w0, rfl⟩ := List.length_eq_one_iff.1 (Option.some.inj hlen).symm
    exact congrArg ([·]) (header24_of_opcode ho)
  case resetPalette | getCursor | getFont | showFrame =>
    obtain ⟨w0, rfl⟩ := List.length_eq_one_iff.1 (Option.some.inj hlen).symm
    exact congrArg ([·]) (header24_of_low24 ho (eq_of_beq hres))
  case getColor =>
    obtain ⟨w0, rfl⟩ := List.length_eq_one_iff.1 (Option.some.inj hlen).symm
    exact congrArg ([·]) (header8_of_opcode ho (eq_of_beq hres))
  case putchar =>
    obtain ⟨w0, rfl⟩ := List.length_eq_one_iff.1 (Option.some.inj hlen).symm
    exact congrArg ([·]) (headerG_of_opcode ho)
  case setPixel =>
    obtain ⟨w0, w1, rfl⟩ := List.length_eq_two.1 (Option.some.inj hlen).symm
    exact congrArg₂ ([·, ·]) (header8_of_opcode ho (eq_of_beq hres)) (halves_highHalf_lowHalf w1)
  case getPixel | setCursor =>
    obtain ⟨w0, w1, rfl⟩ := List.length_eq_two.1 (Option.some.inj hlen).symm
    exact congrArg₂ ([·, ·]) (header24_of_low24 ho (eq_of_beq hres)) (halves_highHalf_lowHalf w1)
  case getGlyph =>
    obtain ⟨w0, w1, rfl⟩ := List.length_eq_two.1 (Option.some.inj hlen).symm
    exact congrArg₂ ([·, ·]) (headerG_of_opcode ho) (header24_of_opcode (eq_of_beq hres))
  case putcharAt =>
    obtain ⟨w0, w1, w2, rfl⟩ := List.length_eq_three.1 (Option.some.inj hlen).symm
    exact congrArg ([·, w1, w2]) (headerG_of_opcode ho)
  all_goals exact absurd hop nofun

theorem toPacked_fromPacked (w : Word) : (Color.fromPacked w).toPacked = w &&& 0x00FFFFFF :=
  BitVec.eq_of_toNat_eq (by
    rw [Color.toPacked_fromPacked_toNat, BitVec.toNat_and]
    exact (Nat.and_two_pow_sub_one_eq_mod w.toNat 24).symm)

theorem ofNat_low24 {w : Word} {n : Nat} (h : n = (low24 w).toNat) : BitVec.ofNat 24 n = low24 w := by
  rw [h, BitVec.ofNat_toNat, BitVec.setWidth_eq]

theorem encode_build_setPalette (h : IsPacket .setPalette f p) :
    (build .setPalette p).WellFormed ∧
      encode (build .setPalette p) = p.take 1 ++ (p.drop 1).map (fun w => w &&& 0x00FFFFFF) := by
  obtain ⟨hrow, hlen, -⟩ := h
  obtain ⟨ho, rfl⟩ := Prod.mk.inj (header_eq_of_rowOf hrow)
  have hlen' : 1 + (low24 (wordAt p 0)).toNat = p.length := Option.some.inj hlen
  obtain ⟨w0, ws, rfl⟩ := List.exists_cons_of_length_pos (show 0 < p.length by omega)
  have hcount : ws.length = (low24 w0).toNat := by
    rw [wordAt_cons_zero, List.length_cons] at hlen'
    omega
  rw [Machine.build_setPalette hcount]
  refine ⟨decide_eq_true (by rw [List.length_map, hcount]; exact (low24 w0).isLt), ?_⟩
  rw [encode, List.length_map, ofNat_low24 hcount, List.map_map]
  exact congrArg₂ List.cons (header24_of_opcode ho) (List.map_congr_left fun w _ => toPacked_fromPacked w)

theorem encode_build_setColor (h : IsPacket .setColor f p) :
    encode (build .setColor p) = p.take 1 ++ (p.drop 1).map (fun w => w &&& 0x00FFFFFF) := by
  obtain ⟨hrow, hlen, hres⟩ := h
  obtain ⟨ho, rfl⟩ := Prod.mk.inj (header_eq_of_rowOf hrow)
  obtain ⟨w0, w1, rfl⟩ := List.length_eq_two.1 (Option.some.inj hlen).symm
  exact congrArg₂ ([·, ·]) (header8_of_opcode ho (eq_of_beq hres)) (toPacked_fromPacked w1)

/-- A payload cut to its count packs into as many words as it came in. -/
theorem pack_unpack_length {n : Nat} {ws : List Word} (h : ws.length = ceil4 n) :
    (pack (unpack n ws)).length = ws.length := by
  rw [pack_length, unpack_length n ws h.ge, h]

theorem encode_build_blitFull (h : IsPacket .blitFull f p) :
    ∃ pix, build .blitFull p = .blitFull pix ∧ pix.length < 2 ^ 24 ∧
      (encode (.blitFull pix)).length = p.length ∧ (encode (.blitFull pix)).take 1 = p.take 1 ∧
      pix = unpack pix.length (p.drop 1) := by
  obtain ⟨hrow, hlen, -⟩ := h
  obtain ⟨ho, rfl⟩ := Prod.mk.inj (header_eq_of_rowOf hrow)
  have hlen' : 1 + ceil4 (low24 (wordAt p 0)).toNat = p.length := Option.some.inj hlen
  obtain ⟨w0, ws, rfl⟩ := List.exists_cons_of_length_pos (show 0 < p.length by omega)
  have hcount : ws.length = ceil4 (low24 w0).toNat := by
    rw [wordAt_cons_zero, List.length_cons] at hlen'
    omega
  have hpix := unpack_length _ ws hcount.ge
  refine ⟨unpack (low24 w0).toNat ws, rfl, hpix.trans_lt (low24 w0).isLt, ?_, ?_, by rw [hpix]; rfl⟩
  · rw [encode, List.length_cons, pack_unpack_length hcount, List.length_cons]
  · exact congrArg ([·]) (header24_of_low24 ho (ofNat_low24 hpix).symm)

theorem encode_build_blitSprite (h : IsPacket .blitSprite f p) :
    ∃ x y w h pix, build .blitSprite p = .blitSprite x y w h pix ∧ pix.length = w.toNat * h.toNat ∧
      (encode (.blitSprite x y w h pix)).length = p.length ∧ (encode (.blitSprite x y w h pix)).take 4 = p.take 4 ∧
      pix = unpack pix.length (p.drop 4) := by
  obtain ⟨hrow, hlen, hres⟩ := h
  obtain ⟨ho, rfl⟩ := Prod.mk.inj (header_eq_of_rowOf hrow)
  by_cases hshort : p.length < 4
  · exact absurd ((if_pos hshort).symm.trans hlen) nofun
  have hlen' : 4 + ceil4 (spriteArea p) = p.length := Option.some.inj ((if_neg hshort).symm.trans hlen)
  match p, hshort with
  | w0 :: w1 :: w2 :: w3 :: ws, _ =>
    have hcount : ws.length = ceil4 ((lowHalf w3).toNat * (highHalf w3).toNat) := by
      simp only [List.length_cons] at hlen'
      exact (Nat.add_left_cancel (hlen'.trans (Nat.add_comm ws.length 4))).symm
    have hpix := unpack_length _ ws hcount.ge
    refine ⟨w1, w2, lowHalf w3, highHalf w3, unpack ((lowHalf w3).toNat * (highHalf w3).toNat) ws, rfl, hpix, ?_, ?_,
      by rw [hpix]; rfl⟩
    · rw [encode_blitSprite_length, hpix, ← hcount, Nat.add_comm]
      rfl
    · exact congrArg₂ ([·, w1, w2, ·]) (header24_of_low24 ho (eq_of_beq hres)) (halves_highHalf_lowHalf w3)

/-- The command of a whole packet is well formed, and its encoding is as long as the packet. -/
theorem build_wellFormed_length {op : Op} (h : IsPacket op f p) :
    (build op p).WellFormed ∧ (encode (build op p)).length = p.length := by
  have hcolor : (p.take 1 ++ (p.drop 1).map (fun w => w &&& 0x00FFFFFF)).length = p.length := by
    rw [List.length_append, List.length_map, ← List.length_append, List.take_append_drop]
  cases op
  case setPalette =>
    obtain ⟨hwf, henc⟩ := encode_build_setPalette h
    exact ⟨hwf, by rw [henc, hcolor]⟩
  case setColor => exact ⟨rfl, by rw [encode_build_setColor h, hcolor]⟩
  case blitFull =>
    obtain ⟨pix, hbuild, hpix, hlen, -⟩ := encode_build_blitFull h
    exact hbuild ▸ ⟨decide_eq_true hpix, hlen⟩
  case blitSprite =>
    obtain ⟨x, y, w, h, pix, hbuild, hpix, hlen, -⟩ := encode_build_blitSprite h
    exact hbuild ▸ ⟨decide_eq_true hpix, hlen⟩
  all_goals exact ⟨rfl, congrArg List.length (encode_build h rfl)⟩

end Packet

open Machine

/-- Settles O1: the encoder writes a whole packet of the command's row, which is read back field by field, and the words
after it are not read. -/
theorem decodeOfEncodeIsTheCommand : Obligations.DecodeOfEncodeIsTheCommand :=
  fun _ rest hi => decode_append_of_command (decode_encode hi) rest

/-- Settles O2: a command is built of a whole packet. -/
theorem decodedCommandIsWellFormed : Obligations.DecodedCommandIsWellFormed := by
  intro ws i n hdec
  obtain ⟨hn, op, f, hp, rfl⟩ := isPacket_of_decode hdec
  obtain ⟨hwf, hlen⟩ := build_wellFormed_length hp
  exact ⟨hwf, by rw [hlen, List.length_take_of_le hn], hn⟩

/-- Settles O3: row by row, the packet put together again from the fields of its command. -/
theorem decoderDropsOnlyIgnoredBits : Obligations.DecoderDropsOnlyIgnoredBits := by
  intro ws i n hdec
  have hpos := packetLen_pos (decode_eq_command hdec).1
  obtain ⟨hn, op, f, hp, rfl⟩ := isPacket_of_decode hdec
  have htake1 : (ws.take n).take 1 = ws.take 1 := by rw [List.take_take, Nat.min_eq_left hpos]
  cases op
  case setPalette => exact htake1 ▸ (encode_build_setPalette hp).2
  case setColor => exact htake1 ▸ encode_build_setColor hp
  case blitFull =>
    obtain ⟨pix, hbuild, -, -, hhead, hpix⟩ := encode_build_blitFull hp
    exact hbuild ▸ ⟨hhead.trans htake1, hpix⟩
  case blitSprite =>
    obtain ⟨x, y, w, h, pix, hbuild, -, hlen, hhead, hpix⟩ := encode_build_blitSprite hp
    have hn4 : 4 ≤ n := by
      rw [encode_blitSprite_length, List.length_take_of_le hn] at hlen
      omega
    rw [List.take_take, Nat.min_eq_left hn4] at hhead
    exact hbuild ▸ ⟨hhead, hpix⟩
  all_goals exact encode_build hp rfl

/-- Settles O4: each list of words is the encoding of its command. -/
theorem wordsOfTheSpecDecode : Obligations.WordsOfTheSpecDecode := by
  have of_encode {i : Instr} {ws : List Word} (hi : i.WellFormed) (hws : encode i = ws) :
      decode ws = .command i ws.length := hws ▸ decode_encode hi
  refine ⟨?_, ?_, ?_, ?_, ?_, ?_, ?_, ?_, ?_⟩ <;> exact of_encode rfl rfl

/-- Settles O8: the buffer and the port are what the core has before it. -/
theorem stepRunsTheDecodedCommand : Obligations.StepRunsTheDecodedCommand :=
  fun _ _ _ hdec => step_of_command hdec

/-- Settles O9: the encoder's words decode to the command and to nothing of what follows. -/
theorem stepRunsTheEncodedCommand : Obligations.StepRunsTheEncodedCommand := by
  intro s i rest hi hp
  have hdec : decode s.pending = .command i (encode i).length := by
    rw [State.pending, hp]
    exact decodeOfEncodeIsTheCommand i rest hi
  rw [step_of_command hdec, State.accept, State.pending, hp, List.drop_left]

/-- Settles O10: these are the streams the decoder calls incomplete, and with an empty port there is nothing to receive. -/
theorem incompletePacketIsHeld : Obligations.IncompletePacketIsHeld := by
  intro s h
  have hhold : step s = .next s.hold := step_of_incomplete ((decode_incomplete_iff _).2 h)
  exact ⟨hhold, fun hport => by rw [hhold, State.hold_of_port_nil s hport]⟩

/-- Settles O13: every command reports, so no command and no packet stops the core. -/
theorem noStepStopsTheCore : Obligations.NoStepStopsTheCore := by
  have hexec (i : Instr) (s : State) : ∃ t, exec i s = .next t := by
    obtain ⟨t, _, h, -, -⟩ := exec_reports i s
    exact ⟨t, h⟩
  refine ⟨fun s => ?_, hexec⟩
  rcases decode_cases s.pending with ⟨hdec, -⟩ | ⟨n, -, -, ⟨why, -, hdec⟩ | ⟨i, -, hdec⟩⟩
  · exact ⟨_, step_of_incomplete hdec⟩
  · exact ⟨_, step_of_illegal hdec⟩
  · exact step_of_command hdec ▸ hexec i (s.accept n)

theorem run_succ_of_step {M : Host.Core} {s t : M.State} (h : M.step s = .next t) (k : Nat) :
    M.run (k + 1) s = M.run k t := by
  rw [Host.Core.run, h]

/-- Settles O12: by induction on the commands, each step taking the first one's packet and completing it once. -/
theorem streamOfCommandsCompletes : Obligations.StreamOfCommandsCompletes := by
  intro is
  induction is with
  | nil => exact fun s rest _ hbuf hport => ⟨s, [], rfl, hbuf, hport, rfl, (List.append_nil _).symm⟩
  | cons i is ih =>
    intro s rest hwf hbuf hport
    obtain ⟨hi, his⟩ := List.forall_mem_cons.1 hwf
    have hwords : s.packetBuf ++ s.port = encode i ++ (is.flatMap encode ++ rest) := by
      rw [hbuf, hport, List.nil_append, List.flatMap_cons, List.append_assoc]
    obtain ⟨u, c, hexec, hc, -⟩ := exec_reports i (s.taken (is.flatMap encode ++ rest))
    have hstep : step s = .next u := (stepRunsTheEncodedCommand s i _ hi hwords).trans hexec
    obtain ⟨t, cs, hrun, htbuf, htport, hlen, hcs⟩ := ih u rest his hc.packetBuf hc.port
    refine ⟨t, c :: cs, ?_, htbuf, htport, congrArg (· + 1) hlen, ?_⟩
    · exact (run_succ_of_step hstep is.length).trans hrun
    · rw [hcs, hc.completions, List.append_assoc, List.singleton_append]

end Sys2Proof
end

section
/-! PROOFS. What a command can do to the core, said once. Every branch of every command is one of ten effects, and which
one, with what operands, it reads from the core alone: not from the words after the packet, nor from the logs, nor from
palette or VRAM where the command has no business with them. What every command keeps then holds effect by effect. -/

namespace Sys2Proof
namespace Machine

/-! ### Effects -/

/-- What a command does to the state beside its completion. -/
inductive Effect where
  /-- the error, and nothing else -/
  | fail (e : Status)
  /-- the answer, and nothing else -/
  | answer (data : List Word)
  /-- a surface was asked for and refused (R109) -/
  | refuse (M : ModeRecord)
  /-- the mode is entered (R107) -/
  | enter (m : Id24) (M : ModeRecord)
  | palette (p : List Color)
  | cells (v : List Host.Cell)
  /-- cells are drawn and the cursor moves -/
  | text (v : List Host.Cell) (col row : BitVec 16)
  | cursor (col row : BitVec 16)
  | font (f : Id24)
  | frame (f : Frame)

namespace Effect

/-- The state after the effect. -/
def apply (e : Effect) (s : State) : State :=
  match e with
  | .fail e => s.raise e
  | .answer data => s.respond data
  | .refuse M => (s.handOver M false).raise .resourceCreationFailed
  | .enter m M => ((s.handOver M true).enterMode m M).respond []
  | .palette p => State.respond [] { s with pal := p }
  | .cells v => State.respond [] { s with vram := v }
  | .text v col row => State.respond [] { s with vram := v, curCol := col, curRow := row }
  | .cursor col row => State.respond [] { s with curCol := col, curRow := row }
  | .font f => State.respond [] { s with font := f }
  | .frame f => (s.emit (.present f)).respond []

/-- Its completion. -/
def completion (e : Effect) : Completion :=
  match e with
  | .fail e => ⟨e, []⟩
  | .answer data => ⟨.ok, data⟩
  | .refuse _ => ⟨.resourceCreationFailed, []⟩
  | .enter _ _ | .palette _ | .cells _ | .text _ _ _ | .cursor _ _ | .font _ | .frame _ => ⟨.ok, []⟩

/-- The port events it sends from a state that holds a surface or not. -/
def events (e : Effect) (surf : Bool) : List PortEvent :=
  match e with
  | .refuse M | .enter _ M => (if surf then [.release] else []) ++ [.acquire M.W M.H]
  | .frame f => [.present f]
  | .fail _ | .answer _ | .palette _ | .cells _ | .text _ _ _ | .cursor _ _ | .font _ => []

end Effect

/-- `s` with other storage, other words and other logs. -/
abbrev State.withRest (s : State) (pal : List Color) (vram : List Host.Cell) (buf port : List Word)
    (cs : List Completion) (log : List PortEvent) : State :=
  { s with pal := pal, vram := vram, packetBuf := buf, port := port, completions := cs, portLog := log }

/-- An effect neither reads nor keeps back words and logs. -/
theorem Effect.apply_with (e : Effect) (s : State) (buf port : List Word) (cs : List Completion)
    (log : List PortEvent) :
    e.apply { s with packetBuf := buf, port := port, completions := cs, portLog := log } =
      { e.apply s with packetBuf := buf, port := port, completions := cs ++ [e.completion]
                       portLog := log ++ e.events s.surf } := by
  cases e with
  | refuse M => simp [apply, State.handOver_eq, events]; rfl
  | enter m M => simp [apply, State.handOver_eq, events]; rfl
  | frame f => rfl
  | _ => simp [apply, events, State.respond, State.raise, State.complete, completion]

/-! ### The cells a drawing leaves -/

/-- `v` is VRAM after writes of palette indices inside the framebuffer (R31, R39). -/
structure State.Drawn (s : State) (v : List Host.Cell) : Prop where
  wf : Memory.wf s.vram → Memory.wf v
  cells : ∀ c ∈ v, c ∈ s.vram ∨ (c.1 < s.W * s.H ∧ c.2.toNat < s.NC)

section Drawn

variable {s : State}

theorem State.addr_lt {x y : Nat} (hx : x < s.W) (hy : y < s.H) : s.addr x y < s.W * s.H :=
  calc x + s.W * y < s.W + s.W * y := Nat.add_lt_add_right hx _
    _ = s.W * (y + 1) := by rw [Nat.mul_succ, Nat.add_comm]
    _ ≤ s.W * s.H := Nat.mul_le_mul_left _ hy

theorem drawn_vramWriteRun {start : Nat} {bs : List Byte} (hend : start + bs.length ≤ s.W * s.H)
    (hbs : ∀ b ∈ bs, b.toNat < s.NC) : s.Drawn (s.vramWriteRun start bs).vram where
  wf := Memory.wf_writeRun start bs s.vram
  cells c hc := by
    rcases (Memory.mem_writeRun start bs s.vram c).1 hc with ⟨hold, -⟩ | ⟨hstart, hnew⟩ | ⟨hold, -⟩
    · exact .inl hold
    · have hlt := (List.getElem?_eq_some_iff.1 hnew).1
      exact .inr ⟨by omega, hbs _ (List.mem_of_getElem? hnew)⟩
    · exact .inl hold

theorem drawn_spriteBlit {pix : List Byte} (hpix : ∀ p ∈ pix, p.toNat < s.NC) (x y : Int) (w h : Nat) :
    s.Drawn (spriteBlit x y w h pix s).vram where
  wf := wf_spriteBlit
  cells _ hc := (mem_spriteBlit hc).imp_right fun ⟨hp, hlt⟩ => ⟨hlt, hpix _ hp⟩

theorem mem_glyphRow {gw : Nat} {b fg bg p : Byte} (hp : p ∈ glyphRow gw b fg bg) : p = fg ∨ p = bg := by
  rcases List.mem_append.1 hp with hp | hp
  · obtain ⟨c, -, rfl⟩ := List.mem_map.1 hp
    exact ite_eq_or_eq _ _ _
  · split at hp
    · exact .inr (List.mem_singleton.1 hp)
    · exact absurd hp List.not_mem_nil

/-- A glyph has two pixel values (R90). -/
theorem mem_glyph {c : Configuration} {f : Id24} {code fg bg p : Byte} (hp : p ∈ glyph c f code fg bg) :
    p = fg ∨ p = bg := by
  obtain ⟨r, -, hp⟩ := List.mem_flatMap.1 hp
  exact mem_glyphRow hp

theorem drawn_drawChar {fg bg : Byte} (hfg : fg.toNat < s.NC) (hbg : bg.toNat < s.NC) (code : Byte) (x y : Int) :
    s.Drawn (drawChar code fg bg x y s).vram :=
  drawn_spriteBlit (fun _ hp => (mem_glyph hp).elim (· ▸ hfg) (· ▸ hbg)) x y s.GW s.GH

end Drawn

/-! ### Which command has which effect -/

/-- The effects the command `i` can have in `s`. -/
inductive EffectOf (s : State) : Instr → Effect → Prop
  | fail {i : Instr} {e : Status} (he : e ≠ .ok) : EffectOf s i (.fail e)
  | answer {i : Instr} (data : List Word) : EffectOf s i (.answer data)
  | refuse {m : Id24} {M : ModeRecord} (hM : s.config.mode? m = some M) : EffectOf s (.setMode m) (.refuse M)
  | enter {m : Id24} {M : ModeRecord} (hM : s.config.mode? m = some M) : EffectOf s (.setMode m) (.enter m M)
  | setPalette {cs : List Color} (hcs : cs.length ≤ s.NC) :
      EffectOf s (.setPalette cs) (.palette (s.loadPal cs).pal)
  | setColor (idx : Byte) (c : Color) : EffectOf s (.setColor idx c) (.palette (s.setPal idx c).pal)
  | resetPalette : EffectOf s .resetPalette (.palette s.restorePal.pal)
  | cells {i : Instr} {v : List Host.Cell} (hi : vramCommand i) (hw : ¬ readsOnly i) (hv : s.Drawn v) :
      EffectOf s i (.cells v)
  | putchar {code fg bg : Byte} {v : List Host.Cell} (hv : s.Drawn v) (col row : BitVec 16) :
      EffectOf s (.putchar code fg bg) (.text v col row)
  | setCursor (col row c r : BitVec 16) : EffectOf s (.setCursor col row) (.cursor c r)
  | setFont {f : Id24} {F : FontRecord} (hF : s.config.font? f = some F) (hfit : Configuration.fits F s.modeRec) :
      EffectOf s (.setFont f) (.font f)
  | showFrame : EffectOf s .showFrame (.frame (resolve s))

/-- `i` acts by `e` in `s`, and just so in every state that differs from `s` in what `i` does not read: the words, the
logs, and the palette of a VRAM command and the VRAM of a palette command (R117). -/
def Acts (i : Instr) (s : State) (e : Effect) : Prop :=
  ∀ pal vram buf port cs log, (pal = s.pal ∨ vramCommand i) → (vram = s.vram ∨ paletteCommand i) →
    exec i (s.withRest pal vram buf port cs log) = .next (e.apply (s.withRest pal vram buf port cs log))

section Rest

variable (s : State) (pal : List Color) (buf port : List Word) (cs : List Completion) (log : List PortEvent)

theorem spriteBlit_withRest (x y : Int) (w h : Nat) (pix : List Byte) :
    spriteBlit x y w h pix (s.withRest pal s.vram buf port cs log) =
      s.withRest pal (spriteBlit x y w h pix s).vram buf port cs log := by
  rw [spriteBlit_with x y w h pix s pal buf port cs log, spriteBlit_only_vram]

theorem drawChar_withRest (code fg bg : Byte) (x y : Int) :
    drawChar code fg bg x y (s.withRest pal s.vram buf port cs log) =
      s.withRest pal (drawChar code fg bg x y s).vram buf port cs log :=
  spriteBlit_withRest s pal buf port cs log x y s.GW s.GH _

theorem advance_withRest (v : List Host.Cell) :
    (s.withRest pal v buf port cs log).advance =
      { s.withRest pal v buf port cs log with curCol := s.advance.curCol, curRow := s.advance.curRow } := by
  rw [advance_with { s with vram := v }, State.advance_with_vram, State.advance_only_cursor]

end Rest

theorem not_paletteCommand_of_vramCommand {i : Instr} (h : vramCommand i) : ¬ paletteCommand i := by
  cases i with
  | setPixel | getPixel | blitFull | blitSprite | putcharAt | putchar => exact id
  | _ => exact h.elim

/-! A branch's equation holds of the other state by the check that holds of `s`. Where an operand follows the check, `by exact`
has Lean read the check at that state. -/

/-- A palette command acts the same whatever VRAM, words and logs. -/
theorem exec_effect_of_palette {i : Instr} (hi : paletteCommand i) (s : State) :
    ∃ e, EffectOf s i e ∧ ∀ vram buf port cs log, exec i (s.withRest s.pal vram buf port cs log) =
      .next (e.apply (s.withRest s.pal vram buf port cs log)) := by
  cases i with
  | setPalette colors =>
    by_cases h : s.NC < colors.length
    · exact ⟨.fail .invalidArgument, .fail nofun, fun _ _ _ _ _ => exec_setPalette_of_lt h⟩
    · exact ⟨_, .setPalette (not_lt.1 h), fun _ _ _ _ _ => exec_setPalette_of_le (not_lt.1 h)⟩
  | setColor idx c =>
    by_cases h : s.NC ≤ idx.toNat
    · exact ⟨.fail .outOfRange, .fail nofun, fun _ _ _ _ _ => exec_setColor_of_le (by exact h) c⟩
    · exact ⟨_, .setColor idx c, fun _ _ _ _ _ => exec_setColor_of_lt (by exact not_le.1 h) c⟩
  | getColor idx =>
    cases hc : s.lookup idx with
    | none => exact ⟨.fail .outOfRange, .fail nofun, fun _ _ _ _ _ => exec_getColor_of_no_entry hc⟩
    | some c =>
      by_cases h : s.NC ≤ idx.toNat
      · exact ⟨.fail .outOfRange, .fail nofun, fun _ _ _ _ _ => exec_getColor_of_le h⟩
      · exact ⟨_, .answer _, fun _ _ _ _ _ => exec_getColor_of_lookup (not_le.1 h) hc⟩
  | resetPalette => exact ⟨_, .resetPalette, fun _ _ _ _ _ => rfl⟩
  | _ => exact hi.elim

/-- A VRAM command acts the same whatever palette, words and logs. -/
theorem exec_effect_of_vram {i : Instr} (hi : vramCommand i) (s : State) :
    ∃ e, EffectOf s i e ∧ ∀ pal buf port cs log, exec i (s.withRest pal s.vram buf port cs log) =
      .next (e.apply (s.withRest pal s.vram buf port cs log)) := by
  cases i with
  | setPixel idx x y =>
    by_cases h : s.W ≤ x.toNat ∨ s.H ≤ y.toNat ∨ s.NC ≤ idx.toNat
    · exact ⟨.fail .outOfRange, .fail nofun, fun _ _ _ _ _ => exec_setPixel_of_out h⟩
    · obtain ⟨hx, hy, hidx⟩ : x.toNat < s.W ∧ y.toNat < s.H ∧ idx.toNat < s.NC := by omega
      have hdrawn := drawn_vramWriteRun (bs := [idx]) (State.addr_lt hx hy) (List.forall_mem_singleton.2 hidx)
      exact ⟨_, .cells hi id hdrawn, fun _ _ _ _ _ => exec_setPixel_of_in hx hy hidx⟩
  | getPixel x y =>
    by_cases h : s.W ≤ x.toNat ∨ s.H ≤ y.toNat
    · exact ⟨.fail .outOfRange, .fail nofun, fun _ _ _ _ _ => exec_getPixel_of_out h⟩
    · obtain ⟨hx, hy⟩ := (not_or.1 h).imp not_le.1 not_le.1
      exact ⟨.answer [BitVec.ofNat 32 (s.vramRead (x.toNat + s.W * y.toNat)).toNat], .answer _,
        fun _ _ _ _ _ => exec_getPixel_of_in hx hy⟩
  | blitFull pix =>
    by_cases hlen : pix.length = s.W * s.H
    · by_cases hok : ∀ p ∈ pix, p.toNat < s.NC
      · have hdrawn := drawn_vramWriteRun (start := 0) (hlen ▸ (Nat.zero_add pix.length).le) hok
        exact ⟨_, .cells hi id hdrawn, fun _ _ _ _ _ => exec_blitFull_of_ok hlen hok⟩
      · have hbad : ∃ p ∈ pix, s.NC ≤ p.toNat := by simpa using hok
        exact ⟨.fail .outOfRange, .fail nofun, fun _ _ _ _ _ => exec_blitFull_of_bad_index hlen hbad⟩
    · exact ⟨.fail .invalidArgument, .fail nofun, fun _ _ _ _ _ => exec_blitFull_of_length_ne hlen⟩
  | blitSprite x y w h pix =>
    by_cases hwh : w.toNat < 1 ∨ h.toNat < 1
    · exact ⟨.fail .invalidArgument, .fail nofun, fun _ _ _ _ _ => exec_blitSprite_of_size_zero hwh⟩
    · obtain ⟨hw, hh⟩ := (not_or.1 hwh).imp not_lt.1 not_lt.1
      by_cases hok : ∀ p ∈ pix, p.toNat < s.NC
      · refine ⟨_, .cells hi id (drawn_spriteBlit hok x.toInt y.toInt w.toNat h.toNat), fun _ _ _ _ _ => ?_⟩
        rw [exec_blitSprite_of_ok hw hh (by exact hok), spriteBlit_withRest]
        rfl
      · have hbad : ∃ p ∈ pix, s.NC ≤ p.toNat := by simpa using hok
        exact ⟨.fail .outOfRange, .fail nofun, fun _ _ _ _ _ => exec_blitSprite_of_bad_index hw hh hbad⟩
  | putcharAt code fg bg x y =>
    by_cases h : s.NC ≤ fg.toNat ∨ s.NC ≤ bg.toNat
    · exact ⟨.fail .outOfRange, .fail nofun, fun _ _ _ _ _ => exec_putcharAt_of_bad_index (by exact h) code x y⟩
    · obtain ⟨hfg, hbg⟩ := (not_or.1 h).imp not_le.1 not_le.1
      refine ⟨_, .cells hi id (drawn_drawChar hfg hbg code x.toInt y.toInt), fun _ _ _ _ _ => ?_⟩
      rw [exec_putcharAt_of_ok (by exact hfg) (by exact hbg), drawChar_withRest]
      rfl
  | putchar code fg bg =>
    by_cases h : s.NC ≤ fg.toNat ∨ s.NC ≤ bg.toNat
    · exact ⟨.fail .outOfRange, .fail nofun, fun _ _ _ _ _ => exec_putchar_of_bad_index (by exact h) code⟩
    · obtain ⟨hfg, hbg⟩ := (not_or.1 h).imp not_le.1 not_le.1
      have hdrawn := drawn_drawChar hfg hbg code (s.curCol.toNat * s.GW : Nat) (s.curRow.toNat * s.GH : Nat)
      refine ⟨_, .putchar hdrawn s.advance.curCol s.advance.curRow, fun _ _ _ _ _ => ?_⟩
      rw [exec_putchar_of_indices (by exact h), drawChar_withRest, advance_withRest]
      rfl
  | _ => exact hi.elim

/-- Every other command acts the same whatever words and logs. -/
theorem exec_effect_of_other {i : Instr} (hp : ¬ paletteCommand i) (hv : ¬ vramCommand i) (s : State) :
    ∃ e, EffectOf s i e ∧ ∀ buf port cs log, exec i (s.withRest s.pal s.vram buf port cs log) =
      .next (e.apply (s.withRest s.pal s.vram buf port cs log)) := by
  cases i with
  | setMode m =>
    cases hm : s.config.mode? m with
    | none => exact ⟨.fail .unknownMode, .fail nofun, fun _ _ _ _ => exec_setMode_of_unknown hm⟩
    | some M =>
      cases hg : Config.surfaceAcquire s.acquisitions with
      | false => exact ⟨_, .refuse hm, fun _ _ _ _ => exec_setMode_of_refused hm hg⟩
      | true => exact ⟨_, .enter hm, fun _ _ _ _ => exec_setMode_of_granted hm hg⟩
  | setCursor col row =>
    exact ⟨.cursor (BitVec.ofNat 16 (col.toNat % s.gridCols)) (BitVec.ofNat 16 (row.toNat % s.gridRows)),
      .setCursor col row _ _, fun _ _ _ _ => rfl⟩
  | getCursor => exact ⟨.answer [Operand.halves s.curRow s.curCol], .answer _, fun _ _ _ _ => rfl⟩
  | setFont f =>
    cases hF : s.config.font? f with
    | none => exact ⟨.fail .invalidArgument, .fail nofun, fun _ _ _ _ => exec_setFont_of_unknown hF⟩
    | some F =>
      by_cases hfit : s.W < F.GW ∨ s.H < F.GH
      · exact ⟨.fail .invalidArgument, .fail nofun, fun _ _ _ _ =>
          (exec_setFont_of_known (by exact hF)).trans (congrArg _ (if_pos hfit))⟩
      · exact ⟨_, .setFont hF ((not_or.1 hfit).imp not_lt.1 not_lt.1), fun _ _ _ _ =>
          (exec_setFont_of_known (by exact hF)).trans (congrArg _ (if_neg hfit))⟩
  | getFont => exact ⟨.answer [s.font.setWidth 32], .answer _, fun _ _ _ _ => rfl⟩
  | getGlyph f code fg bg =>
    cases hF : s.config.font? f with
    | none =>
      exact ⟨.fail .invalidArgument, .fail nofun, fun _ _ _ _ => exec_getGlyph_of_unknown (by exact hF) code fg bg⟩
    | some F =>
      exact ⟨.answer (Operand.pack (glyph s.config f code fg bg)), .answer _,
        fun _ _ _ _ => exec_getGlyph_of_known (by exact hF) code fg bg⟩
  | fontSize f =>
    cases hF : s.config.font? f with
    | none => exact ⟨.fail .invalidArgument, .fail nofun, fun _ _ _ _ => exec_fontSize_of_unknown hF⟩
    | some F => exact ⟨_, .answer _, fun _ _ _ _ => exec_fontSize_of_known hF⟩
  | showFrame =>
    cases hsurf : s.surf with
    | false =>
      exact ⟨.fail .resourceCreationFailed, .fail nofun, fun _ _ _ _ => exec_showFrame_of_no_surface hsurf⟩
    | true => exact ⟨_, .showFrame, fun _ _ _ _ => exec_showFrame_of_surface hsurf⟩
  | setPalette | setColor | getColor | resetPalette => exact absurd trivial hp
  | _ => exact absurd trivial hv

/-- Every command acts by an effect. -/
theorem exec_effect (i : Instr) (s : State) : ∃ e, EffectOf s i e ∧ Acts i s e := by
  by_cases hv : vramCommand i
  · obtain ⟨e, he, h⟩ := exec_effect_of_vram hv s
    refine ⟨e, he, fun pal vram buf port cs log _ hvram => ?_⟩
    rw [hvram.resolve_right (not_paletteCommand_of_vramCommand hv), h]
  by_cases hp : paletteCommand i
  · obtain ⟨e, he, h⟩ := exec_effect_of_palette hp s
    refine ⟨e, he, fun pal vram buf port cs log hpal _ => ?_⟩
    rw [hpal.resolve_right hv, h]
  · obtain ⟨e, he, h⟩ := exec_effect_of_other hp hv s
    refine ⟨e, he, fun pal vram buf port cs log hpal hvram => ?_⟩
    rw [hpal.resolve_right hv, hvram.resolve_right hp, h]

/-! ### What follows effect by effect -/

section Apply

variable (e : Effect) (s : State)

theorem Effect.apply_completions : (e.apply s).completions = s.completions ++ [e.completion] :=
  congrArg State.completions (e.apply_with s s.packetBuf s.port s.completions s.portLog)

theorem Effect.apply_portLog : (e.apply s).portLog = s.portLog ++ e.events s.surf :=
  congrArg State.portLog (e.apply_with s s.packetBuf s.port s.completions s.portLog)

theorem Effect.apply_refuse (M : ModeRecord) : (Effect.refuse M).apply s =
    { s.done .resourceCreationFailed [] with
      surf := false
      portLog := s.portLog ++ (if s.surf then [.release] else []) ++ [.acquire M.W M.H]
      acquisitions := s.acquisitions + 1 } := by
  rw [apply, State.handOver_eq]
  rfl

/-- No effect touches the words or the configuration. -/
theorem Effect.apply_words : (e.apply s).packetBuf = s.packetBuf ∧ (e.apply s).port = s.port ∧
    (e.apply s).config = s.config := by
  cases e with
  | refuse M =>
    rw [apply_refuse]
    exact ⟨rfl, rfl, rfl⟩
  | enter m M =>
    rw [apply, State.handOver_eq]
    exact ⟨rfl, rfl, rfl⟩
  | _ => exact ⟨rfl, rfl, rfl⟩

end Apply

section Exec

variable {i : Instr} {s t : State} {e : Effect}

theorem exec_eq_apply (h : exec i s = .next t) : ∃ e, EffectOf s i e ∧ Acts i s e ∧ t = e.apply s := by
  obtain ⟨e, he, hacts⟩ := exec_effect i s
  have hexec := hacts s.pal s.vram s.packetBuf s.port s.completions s.portLog (.inl rfl) (.inl rfl)
  exact ⟨e, he, hacts, Host.Outcome.next.inj (h.symm.trans hexec)⟩

/-- With other words and logs the same effect, on other words and logs. -/
theorem Acts.exec_with (h : Acts i s e) (buf port : List Word) (cs : List Completion) (log : List PortEvent) :
    exec i { s with packetBuf := buf, port := port, completions := cs, portLog := log } =
      .next { e.apply s with packetBuf := buf, port := port, completions := cs ++ [e.completion]
                             portLog := log ++ e.events s.surf } :=
  (h s.pal s.vram buf port cs log (.inl rfl) (.inl rfl)).trans (congrArg _ (e.apply_with s buf port cs log))

end Exec

section Writers

variable {i : Instr} {s : State} {e : Effect} (he : EffectOf s i e)
include he

theorem EffectOf.mode_writer (h : (e.apply s).mode ≠ s.mode ∨ (e.apply s).surf ≠ s.surf ∨
    (e.apply s).vramEpoch ≠ s.vramEpoch ∨ (e.apply s).acquisitions ≠ s.acquisitions) : ∃ m, i = .setMode m := by
  cases he with
  | refuse | enter => exact ⟨_, rfl⟩
  | _ => rcases h with h | h | h | h <;> exact absurd rfl h

theorem EffectOf.font_writer (h : (e.apply s).font ≠ s.font) : (∃ m, i = .setMode m) ∨ ∃ f, i = .setFont f := by
  cases he with
  | refuse | enter => exact .inl ⟨_, rfl⟩
  | setFont => exact .inr ⟨_, rfl⟩
  | _ => exact absurd rfl h

theorem EffectOf.cursor_writer (h : (e.apply s).curCol ≠ s.curCol ∨ (e.apply s).curRow ≠ s.curRow) :
    (∃ m, i = .setMode m) ∨ (∃ c r, i = .setCursor c r) ∨ ∃ code fg bg, i = .putchar code fg bg := by
  cases he with
  | refuse | enter => exact .inl ⟨_, rfl⟩
  | setCursor => exact .inr (.inl ⟨_, _, rfl⟩)
  | putchar => exact .inr (.inr ⟨_, _, _, rfl⟩)
  | _ => rcases h with h | h <;> exact absurd rfl h

theorem EffectOf.pal_writer (h : (e.apply s).pal ≠ s.pal) : (∃ m, i = .setMode m) ∨ (∃ cs, i = .setPalette cs) ∨
    (∃ k c, i = .setColor k c) ∨ i = .resetPalette := by
  cases he with
  | refuse | enter => exact .inl ⟨_, rfl⟩
  | setPalette => exact .inr (.inl ⟨_, rfl⟩)
  | setColor => exact .inr (.inr (.inl ⟨_, _, rfl⟩))
  | resetPalette => exact .inr (.inr (.inr rfl))
  | _ => exact absurd rfl h

theorem EffectOf.vram_writer (h : (e.apply s).vram ≠ s.vram) : (∃ m, i = .setMode m) ∨ vramCommand i := by
  cases he with
  | refuse | enter => exact .inl ⟨_, rfl⟩
  | cells hi => exact .inr hi
  | putchar => exact .inr trivial
  | _ => exact absurd rfl h

theorem EffectOf.portLog_writer (h : (e.apply s).portLog ≠ s.portLog) :
    (∃ m, i = .setMode m) ∨ i = .showFrame := by
  cases he with
  | refuse | enter => exact .inl ⟨_, rfl⟩
  | showFrame => exact .inr rfl
  | _ => exact absurd rfl h

end Writers
end Machine

open Machine

/-- Settles O20: register by register, the effects that write it. -/
theorem onlyTheNamedCommandsWriteEachRegister : Obligations.OnlyTheNamedCommandsWriteEachRegister := by
  intro i s t hexec
  obtain ⟨e, he, -, rfl⟩ := exec_eq_apply hexec
  exact ⟨he.mode_writer, he.font_writer, he.cursor_writer, he.pal_writer, he.vram_writer, he.portLog_writer,
    e.apply_words s⟩

/-- Settles O14: of the effects only `fail` and `refuse` complete with an error, and `refuse` is SET_MODE's. -/
theorem errorsLeaveTheStateAsItWas : Obligations.ErrorsLeaveTheStateAsItWas := by
  refine ⟨fun s why n hdec => step_of_illegal hdec, fun i s t c hexec hc hne => ?_⟩
  obtain ⟨e, he, -, rfl⟩ := exec_eq_apply hexec
  rw [e.apply_completions, List.append_cancel_left_eq, List.singleton_inj] at hc
  subst hc
  cases he with
  | fail => exact .inl rfl
  | refuse hM => exact .inr ⟨_, _, rfl, hM, rfl, Effect.apply_refuse s _⟩
  | _ => exact absurd rfl hne

/-- Settles O16: a read command's effect is `fail` or `answer`, which add a completion alone, and it acts the same with one
completion more. -/
theorem readCommandsChangeNothing : Obligations.ReadCommandsChangeNothing := by
  intro i s hi
  obtain ⟨e, he, hacts⟩ := exec_effect i s
  have hdone : ∀ u : State, e.apply u = u.done e.completion.status e.completion.data := by
    cases he with
    | fail | answer => exact fun _ => rfl
    | cells _ hw => exact absurd hi hw
    | _ => exact hi.elim
  have hexec (cs : List Completion) : exec i { s with completions := cs } =
      .next (State.done { s with completions := cs } e.completion.status e.completion.data) :=
    hdone _ ▸ hacts s.pal s.vram s.packetBuf s.port cs s.portLog (.inl rfl) (.inl rfl)
  exact ⟨e.completion, hexec s.completions, hexec _⟩

/-- Settles O17: a palette command's effects leave VRAM and a VRAM command's leave the palette, and neither reads it. -/
theorem paletteAndVramAreIndependent : Obligations.PaletteAndVramAreIndependent := by
  refine ⟨fun i s t hi hexec => ?_, fun i s t hi hexec => ?_⟩
  · obtain ⟨e, he, hacts, rfl⟩ := exec_eq_apply hexec
    have hother (v : List Host.Cell) :=
      hacts s.pal v s.packetBuf s.port s.completions s.portLog (.inl rfl) (.inr hi)
    cases he with
    | fail | answer | setPalette | setColor | resetPalette => exact ⟨rfl, hother⟩
    | cells hi' => exact absurd hi (not_paletteCommand_of_vramCommand hi')
    | _ => exact hi.elim
  · obtain ⟨e, he, hacts, rfl⟩ := exec_eq_apply hexec
    have hother (p : List Color) :=
      hacts p s.vram s.packetBuf s.port s.completions s.portLog (.inr hi) (.inl rfl)
    cases he with
    | fail | answer | cells | putchar => exact ⟨rfl, hother⟩
    | _ => exact hi.elim

/-- Settles O18: a command acts by the same effect whatever the words, and no effect touches them. -/
theorem laterWordsDoNotAffectACommand : Obligations.LaterWordsDoNotAffectACommand := by
  intro i s t buf port hexec
  obtain ⟨e, -, hacts, rfl⟩ := exec_eq_apply hexec
  have h := hacts.exec_with buf port s.completions s.portLog
  rwa [← e.apply_completions, ← e.apply_portLog] at h

/-- Settles O19: a command acts by the same effect whatever the logs, and an effect appends its completion and its events. -/
theorem logsAreNeverReadAndOnlyGrow : Obligations.LogsAreNeverReadAndOnlyGrow := by
  intro i s t hexec
  obtain ⟨e, -, hacts, rfl⟩ := exec_eq_apply hexec
  refine ⟨e.completion, e.events s.surf, e.apply_completions s, e.apply_portLog s, fun cs log => ?_⟩
  obtain ⟨hbuf, hport, -⟩ := e.apply_words s
  rw [hbuf, hport]
  exact hacts.exec_with s.packetBuf s.port cs log

end Sys2Proof
end

section
/-! PROOFS. The invariant of the core and the geometry it gives (10_state.md R24 to R37, 20_memory.md R39). Each effect keeps
the invariant by the one field it writes; so every command does, every step, and every run from a reset. -/

namespace Sys2Proof
namespace Machine

/-! ### The frame log -/

/-- A resolved frame has its shape, in every state (R133). -/
theorem frameOk_resolve (s : State) : frameOk (resolve s) := by
  refine ⟨resolve_pixels_length s, rfl, fun p hp => ?_⟩
  obtain ⟨a, -, rfl⟩ := List.mem_map.1 hp
  rw [resolveCell, Operand.toPacked_toNat]
  omega

theorem frameLog_handOver (M : ModeRecord) (granted : Bool) (s : State) :
    (s.handOver M granted).frameLog = s.frameLog := by
  have hlog : (s.handOver M granted).portLog = (s.switchMode 0 M granted).portLog := by cases granted <;> rfl
  exact (State.frameLog_of_portLog _ _ hlog).trans (frameLog_switchMode 0 M granted s)

/-! ### The invariant, write by write -/

namespace State.Inv

variable {s : State}

/-- A state that has just entered a mode of its table: the mode's font, a palette of its size, no cell written. -/
theorem of_entered {M : ModeRecord} (hok : s.config.ok) (hM : s.config.mode? s.mode = some M) (hfont : s.font = M.FONT0)
    (hpal : s.pal.length = M.NC) (hvram : s.vram = []) (hbuf : decode s.packetBuf = .incomplete)
    (herrors : ∀ c ∈ s.completions, c.status ≠ .ok → c.data = []) (hframes : ∀ f ∈ s.frameLog, frameOk f) : s.Inv where
  configOk := hok
  modeKey := Option.isSome_iff_exists.2 ⟨M, hM⟩
  fontFits := by
    obtain ⟨F, hF, hfit⟩ := Configuration.mode?_font hok hM
    rw [hfont, hF, modeRec_of hM, Option.any_some, decide_eq_true hfit]
  palSize := by rw [NC, modeRec_of hM, hpal]
  vramWf := hvram ▸ List.Pairwise.nil
  vramCells := hvram ▸ nofun
  bufPartial := hbuf
  errorsEmpty := herrors
  framesOk := hframes

section Kept

variable (hs : s.Inv)
include hs

theorem complete {e : Status} {data : List Word} (hdata : e ≠ .ok → data = []) : (s.complete e data).Inv :=
  { hs with
    errorsEmpty := List.forall_mem_append.2 ⟨hs.errorsEmpty, List.forall_mem_singleton.2 hdata⟩ }

theorem respond (data : List Word) : (s.respond data).Inv := hs.complete fun h => absurd rfl h

theorem raise (e : Status) : (s.raise e).Inv := hs.complete fun _ => rfl

theorem with_pal {p : List Color} (hp : p.length = s.NC) : State.Inv { s with pal := p } := { hs with palSize := hp }

theorem with_vram {v : List Host.Cell} (hv : s.Drawn v) : State.Inv { s with vram := v } :=
  { hs with
    vramWf := hv.wf hs.vramWf
    vramCells := fun c hc => (hv.cells c hc).elim (hs.vramCells c) id }

theorem with_cursor (col row : BitVec 16) : State.Inv { s with curCol := col, curRow := row } := { hs with }

theorem with_font {f : Id24} {F : FontRecord} (hF : s.config.font? f = some F)
    (hfit : Configuration.fits F s.modeRec) : State.Inv { s with font := f } :=
  { hs with fontFits := (congrArg (Option.any _) hF).trans (decide_eq_true hfit) }

theorem present : (s.emit (.present (resolve s))).Inv :=
  { hs with
    framesOk := by
      rw [frameLog_append]
      exact List.forall_mem_append.2 ⟨hs.framesOk, List.forall_mem_singleton.2 (frameOk_resolve s)⟩ }

theorem handOver (M : ModeRecord) (granted : Bool) : (s.handOver M granted).Inv := by
  have hframes : ∀ f ∈ (s.handOver M granted).frameLog, frameOk f := frameLog_handOver M granted s ▸ hs.framesOk
  rw [handOver_eq] at hframes ⊢
  exact { hs with framesOk := hframes }

theorem enterMode {m : Id24} {M : ModeRecord} (hM : s.config.mode? m = some M) : (s.enterMode m M).Inv :=
  of_entered hs.configOk hM rfl (Configuration.defaultPalette_length s.config M.NC) rfl hs.bufPartial hs.errorsEmpty
    hs.framesOk

theorem accept (n : Nat) : (s.accept n).Inv := { hs with bufPartial := rfl }

theorem hold (h : decode s.pending = .incomplete) : s.hold.Inv := { hs with bufPartial := h }

theorem hostSend (ws : List Word) : (s.hostSend ws).Inv := { hs with }

end Kept
end State.Inv

/-! ### Commands, steps and runs -/

theorem EffectOf.inv {i : Instr} {s : State} {e : Effect} (he : EffectOf s i e) (hs : s.Inv) : (e.apply s).Inv := by
  cases he with
  | fail => exact hs.raise _
  | answer data => exact hs.respond data
  | refuse => exact (hs.handOver _ false).raise _
  | enter hM => exact ((hs.handOver _ true).enterMode (by rwa [State.handOver_config])).respond []
  | setPalette hcs =>
    refine (hs.with_pal ?_).respond []
    rw [State.loadPal_pal, List.length_append, List.length_drop, hs.palSize, Nat.add_sub_cancel' hcs]
  | setColor idx c => exact (hs.with_pal (List.length_set.trans hs.palSize)).respond []
  | resetPalette => exact (hs.with_pal (Configuration.defaultPalette_length s.config s.NC)).respond []
  | cells _ _ hv => exact (hs.with_vram hv).respond []
  | putchar hv col row => exact ((hs.with_vram hv).with_cursor col row).respond []
  | setCursor _ _ c r => exact (hs.with_cursor c r).respond []
  | setFont hF hfit => exact (hs.with_font hF hfit).respond []
  | showFrame => exact hs.present.respond []

theorem exec_inv {i : Instr} {s t : State} (hs : s.Inv) (h : exec i s = .next t) : t.Inv := by
  obtain ⟨e, he, -, rfl⟩ := exec_eq_apply h
  exact he.inv hs

theorem step_inv {s t : State} (hs : s.Inv) (h : step s = .next t) : t.Inv := by
  rcases step_cases h with ⟨hdec, rfl⟩ | ⟨_, n, -, rfl⟩ | ⟨i, n, -, hexec⟩
  · exact hs.hold hdec
  · exact (hs.accept n).raise _
  · exact exec_inv (hs.accept n) hexec

theorem resetWith_inv {c : Configuration} (hc : c.ok) (acq epoch : Nat) : (State.resetWith c acq epoch).Inv := by
  obtain ⟨M, hM⟩ := Configuration.resetMode hc
  have hM' : (State.resetWith c acq epoch).config.mode? (State.resetWith c acq epoch).mode = some M := hM
  refine .of_entered hc hM' ?_ ?_ rfl rfl nofun nofun
  · rw [State.resetWith, Configuration.modeRecord_of hM]
  · rw [State.resetWith, Configuration.modeRecord_of hM, Configuration.defaultPalette_length]

theorem Reachable.inv {s : State} (h : Reachable s) : s.Inv := by
  induction h with
  | build c s hbuild =>
    obtain ⟨hc, rfl⟩ := State.build?_eq_some.1 hbuild
    exact resetWith_inv hc 0 0
  | send s ws _ ih => exact ih.hostSend ws
  | step s t _ hstep ih => exact step_inv ih hstep
  | hostReset s _ ih => exact resetWith_inv ih.configOk _ _

/-! ### The grid -/

theorem State.Inv.font {s : State} (hs : s.Inv) :
    ∃ F, s.config.font? s.font = some F ∧ Configuration.fontOk F ∧ Configuration.fits F s.modeRec := by
  obtain ⟨F, hF, hfit⟩ := (Option.any_eq_true _ _).1 hs.fontFits
  exact ⟨F, hF, Configuration.font?_ok hs.configOk hF, of_decide_eq_true hfit⟩

/-- The last pixel of a cell of a grid lies in the framebuffer. -/
theorem cell_end_le {n size glyph : Nat} (h : n < size / glyph) : n * glyph + glyph ≤ size :=
  calc n * glyph + glyph = (n + 1) * glyph := (Nat.succ_mul n glyph).symm
    _ ≤ size / glyph * glyph := Nat.mul_le_mul_right _ h
    _ ≤ size := Nat.div_mul_le_self size glyph

end Machine

open Machine

/-- Settles O21: a step holds, drops an illegal packet, or runs a command, whose effect keeps the invariant. -/
theorem stepKeepsTheInvariant : Obligations.StepKeepsTheInvariant := fun _ _ => step_inv

/-- Settles O22: a reset enters the reset mode, a key of the table. -/
theorem resetMeetsTheInvariant : Obligations.ResetMeetsTheInvariant := by
  refine ⟨resetWith_inv Config.default_ok 0 0, fun c s hbuild => ?_, fun s hok => resetWith_inv hok _ _, fun s => rfl⟩
  exact (Reachable.build c s hbuild).inv

/-- Settles O23: by induction on the run. -/
theorem everyReachableStateMeetsTheInvariant : Obligations.EveryReachableStateMeetsTheInvariant :=
  fun _ => Reachable.inv

/-- Settles O24: the invariant bounds a written cell, and `NC` an unwritten one; the palette has `NC` entries. -/
theorem everyVramCellIndexesThePalette : Obligations.EveryVramCellIndexesThePalette :=
  fun _ a hs => ⟨hs.inv.vramRead_lt a, hs.inv.lookup_vramRead a⟩

/-- Settles O29: column and row of an address are its remainder and its quotient by the width. -/
theorem addressMapIsABijection : Obligations.AddressMapIsABijection := by
  refine fun s => ⟨fun x y hx hy => ⟨rfl, State.addr_lt hx hy⟩, fun x y x' y' hx hx' h => ?injective,
    fun a ha => ⟨a % s.W, a / s.W, ?col, ?row, Nat.mod_add_div a s.W⟩⟩
  case injective =>
    have hmod {x : Nat} (y : Nat) (hx : x < s.W) : s.addr x y % s.W = x := by
      rw [State.addr, Nat.add_mul_mod_self_left, Nat.mod_eq_of_lt hx]
    have hdiv {x : Nat} (y : Nat) (hx : x < s.W) : s.addr x y / s.W = y := by
      rw [State.addr, Nat.add_mul_div_left _ _ (Nat.zero_lt_of_lt hx), Nat.div_eq_of_lt hx, Nat.zero_add]
    exact ⟨by rw [← hmod y hx, h, hmod y' hx'], by rw [← hdiv y hx, h, hdiv y' hx']⟩
  case col => exact Nat.mod_lt a (Nat.pos_of_lt_mul_right ha)
  case row => exact Nat.div_lt_of_lt_mul ha

/-- Settles O30: the font of a legal state has a size, and fits. -/
theorem gridCellsLieInsideTheFramebuffer : Obligations.GridCellsLieInsideTheFramebuffer := by
  intro s hs
  obtain ⟨F, hF, ⟨hGW, hGH, -⟩, hfitW, hfitH⟩ := hs.font
  have hW : s.GW = F.GW := by rw [State.GW, State.fontRec_of hF]
  have hH : s.GH = F.GH := by rw [State.GH, State.fontRec_of hF]
  refine ⟨rfl, rfl, ?_, ?_, fun _ => cell_end_le, fun _ => cell_end_le⟩
  · exact Nat.div_pos (hW ▸ hfitW) (by omega)
  · exact Nat.div_pos (hH ▸ hfitH) (by omega)

end Sys2Proof
end

section
/-! PROOFS. Configurations, reset and SET_MODE (00_scope.md R11 to R13, 10_state.md R37, 43_mode.md R107 to R109). A core is
built from exactly the configurations whose checks all pass; reset and a granted SET_MODE enter a mode, with its default
palette and a VRAM of which every cell is a draw below `NC`. -/

namespace Sys2Proof
namespace Configuration

/-! ### Which configurations are refused -/

theorem not_fontOk_iff (F : FontRecord) :
    ¬ fontOk F ↔ (F.GW ≠ 8 ∧ F.GW ≠ 9) ∨ F.GH < 1 ∨ romLength F.ROM < F.GH * 256 := by
  unfold fontOk
  omega

/-- A lookup that some record passes is a key whose record passes. -/
theorem not_any_fits_iff (c : Configuration) (M : ModeRecord) :
    ¬ (c.font? M.FONT0).any (fun F => decide (fits F M)) = true ↔
      ∀ F, c.font? M.FONT0 = some F → M.W < F.GW ∨ M.H < F.GH := by
  rw [Bool.not_eq_true, Option.any_eq_false]
  refine forall₂_congr fun F _ => ?_
  rw [decide_eq_false_iff_not, not_and_or, not_le, not_le]

theorem not_modeOk_iff (c : Configuration) (M : ModeRecord) :
    ¬ c.modeOk M ↔ M.W < 1 ∨ 65535 < M.W ∨ M.H < 1 ∨ 65535 < M.H ∨ 2 ^ 24 - 1 < M.W * M.H ∨ (M.NC ≠ 16 ∧ M.NC ≠ 256) ∨
      ∀ F, c.font? M.FONT0 = some F → M.W < F.GW ∨ M.H < F.GH := by
  rw [← not_any_fits_iff]
  simp only [modeOk, not_and_or, not_or, not_le, or_assoc, ne_eq]

theorem mode?_eq_none_iff (c : Configuration) (m : Id24) : c.mode? m = none ↔ ∀ row ∈ c.MODE_TABLE, row.1 ≠ m := by
  simp only [mode?, find?, Option.map_eq_none_iff, List.find?_eq_none, beq_iff_eq, ne_eq]

/-- A configuration is refused exactly when one of the checks of R11 to R13, R95 and R157 fails. -/
theorem not_ok_iff (c : Configuration) :
    ((∃ row ∈ c.FONT_TABLE, (row.2.GW ≠ 8 ∧ row.2.GW ≠ 9) ∨ row.2.GH < 1 ∨ romLength row.2.ROM < row.2.GH * 256) ∨
      (∃ row ∈ c.MODE_TABLE, row.2.W < 1 ∨ 65535 < row.2.W ∨ row.2.H < 1 ∨ 65535 < row.2.H ∨
        2 ^ 24 - 1 < row.2.W * row.2.H ∨ (row.2.NC ≠ 16 ∧ row.2.NC ≠ 256) ∨
        ∀ F, c.font? row.2.FONT0 = some F → row.2.W < F.GW ∨ row.2.H < F.GH) ∨
      (∀ row ∈ c.MODE_TABLE, row.1 ≠ c.RESET_MODE) ∨ c.DEFAULT16.length ≠ 16 ∨
      ¬ (c.MODE_TABLE.map (·.1)).Nodup ∨ ¬ (c.FONT_TABLE.map (·.1)).Nodup) ↔ ¬ c.ok := by
  have hfonts : (∃ row ∈ c.FONT_TABLE, (row.2.GW ≠ 8 ∧ row.2.GW ≠ 9) ∨ row.2.GH < 1 ∨
      romLength row.2.ROM < row.2.GH * 256) ↔ ¬ ∀ row ∈ c.FONT_TABLE, fontOk row.2 := by
    simp only [← not_fontOk_iff, not_forall, exists_prop]
  have hmodes : (∃ row ∈ c.MODE_TABLE, row.2.W < 1 ∨ 65535 < row.2.W ∨ row.2.H < 1 ∨ 65535 < row.2.H ∨
      2 ^ 24 - 1 < row.2.W * row.2.H ∨ (row.2.NC ≠ 16 ∧ row.2.NC ≠ 256) ∨
      ∀ F, c.font? row.2.FONT0 = some F → row.2.W < F.GW ∨ row.2.H < F.GH) ↔
        ¬ ∀ row ∈ c.MODE_TABLE, c.modeOk row.2 := by
    simp only [← not_modeOk_iff, not_forall, exists_prop]
  have hreset : (∀ row ∈ c.MODE_TABLE, row.1 ≠ c.RESET_MODE) ↔ ¬ (c.mode? c.RESET_MODE).isSome = true := by
    rw [← mode?_eq_none_iff, Bool.not_eq_true, Option.isSome_eq_false_iff, Option.isNone_iff_eq_none]
  rw [hfonts, hmodes, hreset]
  constructor
  · rintro h ⟨modeKeys, fontKeys, modes, fonts, reset, defaults⟩
    rcases h with h | h | h | h | h | h
    exacts [h fonts, h modes, h reset, h defaults, h modeKeys, h fontKeys]
  · refine fun h => by_contra fun hnone => h ?_
    simp only [not_or, ne_eq, not_not] at hnone
    obtain ⟨fonts, modes, reset, defaults, modeKeys, fontKeys⟩ := hnone
    exact ⟨modeKeys, fontKeys, modes, fonts, reset, defaults⟩

end Configuration

namespace Machine

/-! ### Reset -/

namespace State

theorem build?_eq_none_iff (c : Configuration) : build? c = none ↔ ¬ c.ok := by
  unfold build?
  split
  · next h => exact iff_of_false nofun (not_not.2 h)
  · next h => exact iff_of_true rfl h

/-- In a mode of a well-formed table every cell just allocated is a draw below `NC` (R107). -/
theorem vramRead_lt_of_unwritten {s : State} {M : ModeRecord} (hok : s.config.ok) (hM : s.config.mode? s.mode = some M)
    (hvram : s.vram = []) (a : Nat) : (s.vramRead a).toNat < M.NC := by
  obtain ⟨-, -, -, hNC, -⟩ := Configuration.mode?_ok hok hM
  have hs : s.NC = M.NC := by rw [NC, modeRec_of hM]
  rw [vramRead_eq, hvram, Memory.read?_nil, Option.getD_none, ← hs]
  exact vramFree_lt (hs ▸ hNC) a

/-- SET_MODE granted, field by field (R107). -/
theorem switchMode_granted (s : State) (m : Id24) (M : ModeRecord) :
    s.switchMode m M true =
      { config := s.config, mode := m, font := M.FONT0, curCol := 0, curRow := 0, surf := true
        pal := s.config.defaultPalette M.NC, vram := []
        packetBuf := s.packetBuf, port := s.port
        completions := s.completions ++ [⟨.ok, []⟩]
        portLog := s.portLog ++ (if s.surf then [.release] else []) ++ [.acquire M.W M.H]
        acquisitions := s.acquisitions + 1, vramEpoch := s.vramEpoch + 1 } := by
  rw [switchMode_eq, if_pos rfl, handOver_eq]
  rfl

end State

theorem exec_setMode_of_known {s : State} {m : Id24} {M : ModeRecord} (hM : s.config.mode? m = some M) :
    exec (.setMode m) s = .next (s.switchMode m M (Config.surfaceAcquire s.acquisitions)) := by
  rw [exec, execSetMode, hM]

/-! ### Rotating the palette -/

theorem rotateLeft_eq_rotate (p : List Color) : rotateLeft p = p.rotate 1 := by
  cases p with
  | nil => rfl
  | cons c p => exact (List.rotate_eq_drop_append_take (Nat.le_add_left 1 p.length)).symm

/-- One round: the palette rotated by one, and the completion of the SET_PALETTE that loads it. -/
theorem hostRotate_eq {s : State} (hpal : s.pal.length = s.NC) :
    hostRotate s = { s.done .ok [] with pal := s.pal.rotate 1 } := by
  have hlen : (s.pal.rotate 1).length = s.NC := (List.length_rotate ..).trans hpal
  have hload : (s.loadPal (s.pal.rotate 1)).pal = s.pal.rotate 1 := by
    rw [State.loadPal_pal, hlen, ← hpal, List.drop_length, List.append_nil]
  rw [hostRotate, rotateLeft_eq_rotate, exec_setPalette_of_le hlen.le]
  exact congrArg (fun p => State.done { s with pal := p } .ok []) hload

theorem hostRotate_iterate (n : Nat) {s : State} (hpal : s.pal.length = s.NC) :
    hostRotate^[n] s = { s with pal := s.pal.rotate n, completions := (hostRotate^[n] s).completions } := by
  induction n generalizing s with
  | zero => rw [List.rotate_zero]; rfl
  | succ n ih =>
    have hlen : (hostRotate s).pal.length = (hostRotate s).NC := by
      rw [hostRotate_eq hpal]
      exact (List.length_rotate ..).trans hpal
    rw [Function.iterate_succ_apply, ih hlen, hostRotate_eq hpal]
    simp only [List.rotate_rotate, Nat.add_comm]

/-! ### FONT_SIZE -/

theorem heightField_toNat {gh : Nat} (h : gh < 2 ^ 16) : (heightField gh).toNat = gh := by
  rw [heightField, if_pos h, BitVec.toNat_ofNat, Nat.mod_eq_of_lt h]

end Machine

open Machine

/-- Settles O28: a core is built exactly where no check fails, and each lookup of its tables gives a record that passed. -/
theorem configurationIsWellFormed : Obligations.ConfigurationIsWellFormed := by
  refine ⟨fun c s hbuild => ?lookups, fun c => c.not_ok_iff.trans (State.build?_eq_none_iff c).symm,
    fun n hn => ?spec⟩
  case lookups =>
    obtain ⟨hok, -⟩ := State.build?_eq_some.1 hbuild
    refine ⟨fun m M hM => ?_, fun f F hF => Configuration.font?_ok hok hF⟩
    obtain ⟨hW, hH, hsize, hNC, -⟩ := Configuration.mode?_ok hok hM
    exact ⟨hW, hH, hsize, hNC, Configuration.mode?_font hok hM⟩
  case spec => exact ⟨⟨_, State.build?_eq_some.2 ⟨Config.withTextColors_ok hn, rfl⟩⟩, rfl, rfl, rfl⟩

/-- Settles O27: the record of the reset mode is the one its key looks up. -/
theorem resetStateIsRule37 : Obligations.ResetStateIsRule37 := by
  refine ⟨fun c s hbuild => ?_, State.build?_eq_some.2 ⟨Config.default_ok, rfl⟩⟩
  obtain ⟨hok, rfl⟩ := State.build?_eq_some.1 hbuild
  obtain ⟨M, hM⟩ := Configuration.resetMode hok
  obtain rfl := Configuration.modeRecord_of hM
  obtain ⟨-, -, -, hNC, -⟩ := Configuration.mode?_ok hok hM
  have hunwritten := State.vramRead_lt_of_unwritten (s := State.resetWith c 0 0) hok hM rfl
  obtain ⟨-, -, -, -, -, hdefaults⟩ := hok
  refine ⟨_, hM, rfl, rfl, rfl, rfl, rfl, rfl, Configuration.defaultPalette_length _ _, fun i hi => ?_,
    fun i hi hlt => ?_, rfl, hunwritten, rfl, rfl, rfl⟩
  · exact (Configuration.getElem?_defaultPalette hdefaults _ _ (by omega)).trans (if_pos hi)
  · exact (Configuration.getElem?_defaultPalette hdefaults _ _ hlt).trans (if_neg hi.not_gt)

/-- Settles O32: the laws of a run written, at an address of it and at one outside. -/
theorem vramWritesKeepTheCanonicalForm : Obligations.VramWritesKeepTheCanonicalForm := by
  refine fun s start bs => ⟨Memory.wf_writeRun start bs s.vram, fun k hk => ?written, fun a ha => ?other⟩
  case written =>
    rw [State.vramRead_vramWriteRun, if_pos ⟨Nat.le_add_right _ _, Nat.add_lt_add_left hk _⟩, Nat.add_sub_cancel_left,
      List.getD_eq_getElem _ _ hk, List.getElem?_eq_getElem hk]
  case other => rw [State.vramRead_vramWriteRun, if_neg (by omega)]

/-- Settles O33: the packet is a row of format I24, which reserves no bit; the two outcomes of the draw are the two states of
R107 and R109. -/
theorem setModeEntersTheModeOrKeepsAllButSurf : Obligations.SetModeEntersTheModeOrKeepsAllButSurf := by
  refine ⟨fun s w0 rest hp hop => ?packet, fun s m => exec_setMode_of_unknown, fun s m M hM =>
    ⟨exec_setMode_of_known hM, s.switchMode_granted m M, fun hok a => ?cells, Effect.apply_refuse s M⟩⟩
  case packet => exact step_of_row_of_reservedZero (ws := []) hp hop rowOf_setMode rfl rfl
  case cells =>
    rw [s.switchMode_granted]
    exact State.vramRead_lt_of_unwritten (by exact hok) (by exact hM) rfl a

/-- Settles O38: a round rotates by one, so `NC` rounds rotate by the palette's length. -/
theorem rotatingThePaletteFullyRestoresIt : Obligations.RotatingThePaletteFullyRestoresIt := by
  intro s hpal
  have hround := hostRotate_iterate s.NC hpal
  rw [← hpal, List.rotate_length, hpal] at hround
  refine ⟨fun i hi => ?_, by rw [hround], hround⟩
  rw [hostRotate_eq hpal, ← hpal]
  exact List.getElem?_rotate (hpal.symm ▸ hi)

/-- Settles O51: the packet is a row of format I24, which reserves no bit; a font is 8 or 9 wide, and its height is the high
half where that holds it. -/
theorem fontSizeAnswersHeightAndWidth : Obligations.FontSizeAnswersHeightAndWidth := by
  refine ⟨fun s w0 rest hp hop => ?packet, fun s f => exec_fontSize_of_unknown, fun s f F hok hF =>
    ⟨heightField F.GH, ?answer, heightField_toNat⟩⟩
  case packet => exact step_of_row_of_reservedZero (ws := []) hp hop rowOf_fontSize rfl rfl
  case answer =>
    obtain ⟨hGW, -, -⟩ := Configuration.font?_ok hok hF
    have hw : (BitVec.ofNat 16 F.GW).toNat = F.GW := (BitVec.toNat_ofNat _ _).trans (Nat.mod_eq_of_lt (by omega))
    rw [exec_fontSize_of_known hF, Operand.halves_eq_ofNat, hw]
    rfl

end Sys2Proof
end

section
/-! PROOFS. The pseudo-instructions (30_encoding.md R73, R74). A line's words are its fields put together, so two lines are the
same words when their operands fit the same fields. -/

namespace Sys2Proof
namespace Asm

/-! ### Fields -/

theorem field_toNat {n : Nat} (w : BitVec n) : field n (w.toNat : Int) = some w := by
  have hfit : (0 : Int) ≤ w.toNat ∧ (w.toNat : Int) < 2 ^ n := ⟨Int.natCast_nonneg _, by exact_mod_cast w.isLt⟩
  rw [field, if_pos hfit, BitVec.ofInt_natCast, BitVec.ofNat_toNat, BitVec.setWidth_eq]

/-- The numbers that fit a field are those of its words. -/
theorem exists_toNat_eq {n : Nat} {v : Int} (h0 : 0 ≤ v) (h : v < 2 ^ n) : ∃ w : BitVec n, v = w.toNat := by
  lift v to ℕ using h0
  have hv : v < 2 ^ n := by exact_mod_cast h
  exact ⟨BitVec.ofNat n v, by rw [BitVec.toNat_ofNat, Nat.mod_eq_of_lt hv]⟩

/-- An operand that does not fit its field is refused (R73). -/
theorem field_eq_none {n : Nat} {v : Int} (h : v < 0 ∨ 2 ^ n ≤ v) : field n v = none :=
  if_neg fun hfit => h.elim hfit.1.not_gt hfit.2.not_ge

theorem fieldsOf_map_toNat {n : Nat} (ws : List (BitVec n)) :
    fieldsOf n (ws.map (fun w => (w.toNat : Int))) = some ws := by
  induction ws with
  | nil => rfl
  | cons w ws ih => simp [fieldsOf, field_toNat, ih]

theorem fieldsOf_replicate {n k : Nat} (hk : 0 < k) (v : Int) :
    fieldsOf n (List.replicate k v) = (field n v).map (List.replicate k) := by
  induction k, hk using Nat.le_induction with
  | base => cases h : field n v <;> simp [fieldsOf, h]
  | succ k _ ih => cases h : field n v <;> simp [List.replicate_succ, fieldsOf, ih, h]

/-! ### Lines -/

/-- The packet of a command that fits one (R67). -/
def packet (i : Instr) : Option (List Word) := if i.wellFormed then some (encode i) else none

section Lines

variable (area : Nat) (idx r g b v : Int)

theorem words_set_rgb_eq : words area ⟨"set_rgb", [idx, r, g, b]⟩ = (do
    let c ← (do return Instr.setColor (← field 8 idx) ⟨← field 8 r, ← field 8 g, ← field 8 b⟩)
    packet c) := rfl

theorem words_set_color_eq : words area ⟨"set_color", [idx, v]⟩ =
    (do return [Operand.header8 0x03 (← field 8 idx), ← color v]) := rfl

theorem words_clear_eq : words area ⟨"clear", [idx]⟩ = (do
    let c ← (do return Instr.blitFull (List.replicate area (← field 8 idx)))
    packet c) := rfl

theorem words_blit_full_eq (bs : List Int) : words area ⟨"blit_full", bs⟩ = (do
    let c ← (do return Instr.blitFull (← fieldsOf 8 bs))
    packet c) := rfl

theorem words_get_color_eq : words area ⟨"get_color", [idx]⟩ = (do
    let c ← (do return Instr.getColor (← field 8 idx))
    packet c) := rfl

theorem words_set_palette_raw_eq (n : Int) (data : List Int) : words area ⟨"set_palette_raw", n :: data⟩ = (do
    let count ← field 24 n
    let raw ← fieldsOf 32 data
    if raw.length = count.toNat then return Operand.header24 0x02 count :: raw else none) := rfl

end Lines

/-- A color operand may be written as the number R77 gives the color. -/
theorem color_eq_toPacked (c : Color) :
    color ((c.r.toNat * 65536 + c.g.toNat * 256 + c.b.toNat : Nat) : Int) = some c.toPacked := by
  rw [← Operand.toPacked_toNat]
  exact field_toNat c.toPacked

theorem words_set_rgb (area : Nat) (idx : Int) {r g b v : Int} {c : Color} (hr : field 8 r = some c.r)
    (hg : field 8 g = some c.g) (hb : field 8 b = some c.b) (hv : color v = some c.toPacked) :
    words area ⟨"set_rgb", [idx, r, g, b]⟩ = words area ⟨"set_color", [idx, v]⟩ := by
  rw [words_set_rgb_eq, words_set_color_eq, hr, hg, hb, hv]
  cases field 8 idx <;> rfl

theorem words_clear {area : Nat} (harea : 0 < area) (idx : Int) :
    words area ⟨"clear", [idx]⟩ = words area ⟨"blit_full", List.replicate area idx⟩ := by
  cases hidx : field 8 idx <;> simp [words_clear_eq, words_blit_full_eq, fieldsOf_replicate harea, hidx]

theorem words_set_palette_raw (area : Nat) {data : List Word} (hdata : data.length < 2 ^ 24) :
    words area ⟨"set_palette_raw", (data.length : Int) :: data.map (fun w => (w.toNat : Int))⟩ =
      some (Operand.header24 0x02 (BitVec.ofNat 24 data.length) :: data) := by
  have hcount : (BitVec.ofNat 24 data.length).toNat = data.length :=
    (BitVec.toNat_ofNat _ _).trans (Nat.mod_eq_of_lt hdata)
  have hfield : field 24 (data.length : Int) = some (BitVec.ofNat 24 data.length) := by
    rw [← field_toNat, hcount]
  simp [words_set_palette_raw_eq, hfield, fieldsOf_map_toNat, hcount]

end Asm

/-- Settles O60: a left-out `bg` is the field 0, and each of the others is a line whose operands fit the same fields. -/
theorem pseudoInstructionsExpandAsShown : Obligations.PseudoInstructionsExpandAsShown := by
  refine fun area code fg x y idx r g b => ⟨rfl, rfl, fun hr0 hr hg0 hg hb0 hb => ?rgb,
    fun harea => Asm.words_clear harea idx, fun data hdata => ⟨_, ?raw, Asm.words_set_palette_raw area hdata⟩,
    fun hidx => ?refused⟩
  case rgb =>
    obtain ⟨r, rfl⟩ : ∃ w : Byte, r = w.toNat := Asm.exists_toNat_eq hr0 hr
    obtain ⟨g, rfl⟩ : ∃ w : Byte, g = w.toNat := Asm.exists_toNat_eq hg0 hg
    obtain ⟨b, rfl⟩ : ∃ w : Byte, b = w.toNat := Asm.exists_toNat_eq hb0 hb
    have hcolor := Asm.color_eq_toPacked ⟨r, g, b⟩
    push_cast at hcolor
    exact Asm.words_set_rgb area idx (Asm.field_toNat r) (Asm.field_toNat g) (Asm.field_toNat b) hcolor
  case raw =>
    rw [Operand.header24_toNat, BitVec.toNat_ofNat, Nat.mod_eq_of_lt hdata]
    rfl
  case refused => simp [Asm.words_get_color_eq, Asm.field_eq_none (n := 8) hidx]

end Sys2Proof
end
